-- ==== Sys2Proof/Word.lean ====
section
/-! DEFINITION. The bit-vector types of the block, each at its exact width, so that no value outside a field's
range can be written (spec 40_bitfield_accessors.md R81, 00_scope.md R6 and R9: all values are unsigned). -/

namespace Sys2Proof

/-- One byte of a stream (20_memory.md R31). Bit 0 is the least significant bit (00_scope.md R8). -/
abbrev Byte := BitVec 8

/-- The `opcode` field, 6 bits (30_encoding.md R51). -/
abbrev Opcode := BitVec 6

/-- The `mod` field, 2 bits (30_encoding.md R54). -/
abbrev ModBits := BitVec 2

/-- A register selector, the width of `reg` and of `rm`: 3 bits (30_encoding.md R55, R56). -/
abbrev Selector := BitVec 3

end Sys2Proof
end

