-- ==== Sys2Proof/Config.lean ====
section
/-! DEFINITION. What the spec fixes once (sizes, 00_scope.md R6) and what it leaves open to the implementation
(00_scope.md R7, 92_eei_decisions.md D11 and D12). LINE_TERMINATOR (D7), which the spec gives a default, is the
field `lineTerminator` of State, so that every statement over states holds for every value of it. -/

namespace Sys2Proof.Config

/-- CHUNK_BYTES: bytes per Encoded Instruction (00_scope.md R6). -/
def chunkBytes : Nat := 2

/-- Characters of a rendered text without its line terminator (00_scope.md R6). -/
def textLength : Nat := 10

/-- LINE_TERMINATOR's default, the single byte 0x0A (43_stream_driver.md R134, D7). DESIGN CHOICE of the spec, log 6. -/
def defaultLineTerminator : List Byte := [0x0A#8]

/-- EXIT_CODE_FATAL (43_stream_driver.md R141, D12): OPEN, its one constraint (not 0) is its type. Log 7. -/
opaque exitCodeFatal : PNat

/-- DIAG_TEXT (60_exceptions.md R161, D11): OPEN; no statement speaks of its bytes. Log 7. -/
opaque diagText : Opcode → List Byte

end Sys2Proof.Config
end

