-- ==== Sys2Proof/Syntax.lean ====
section
/-! DEFINITION. The values the block works on: register identities, addressing modes, the Encoded Instruction,
the Decoded Instruction, and `Instr`, one constructor per row of spec/opcode_table.json. -/

namespace Sys2Proof

/-- The full-width register identities, in selector order (10_state.md R12). Names only: the block holds no register
value (R17). -/
inductive Full16 where
  | ax | cx | dx | bx | sp | bp | si | di
deriving DecidableEq, Repr

/-- The half-width register identities, in selector order (10_state.md R13). -/
inductive Half8 where
  | al | cl | dl | bl | ah | ch | dh | bh
deriving DecidableEq, Repr

/-- The addressing-mode enumeration, a closed set of four (10_state.md R23). -/
inductive Mode where
  | memNoDisp | memDisp8 | memDisp16 | regDirect
deriving DecidableEq, Repr

/-- The Encoded Instruction: exactly two bytes, `byte0` first in stream order (10_state.md R14, 20_memory.md R32). -/
structure Chunk where
  byte0 : Byte
  byte1 : Byte
deriving DecidableEq, Repr

/-- The Decoded Instruction: a tagged ordered pair (destination, source) of one width class, mixed pairs being
unrepresentable (10_state.md R15, R16). -/
inductive Decoded where
  | movFull (dst src : Full16)
  | movHalf (dst src : Half8)
deriving DecidableEq, Repr

/-- One constructor per row of spec/opcode_table.json, with the row's free fields `mod`, `reg`, `rm` in that order.
It is the view of an encoded move by its fields, not the Decoded Instruction: `mod` and the direction are kept
(DESIGN CHOICE, log 1). -/
inductive Instr where
  /-- 0x88, `mov rm8, reg8` (41_decode_dispatch.md R93). -/
  | movRm8Reg8 (mod : Mode) (reg rm : Half8)
  /-- 0x89, `mov rm16, reg16` (R94). -/
  | movRm16Reg16 (mod : Mode) (reg rm : Full16)
  /-- 0x8A, `mov reg8, rm8` (R95). -/
  | movReg8Rm8 (mod : Mode) (reg rm : Half8)
  /-- 0x8B, `mov reg16, rm16` (R96). -/
  | movReg16Rm16 (mod : Mode) (reg rm : Full16)
deriving DecidableEq, Repr

end Sys2Proof
end

