-- ==== Sys2Proof/WellFormed.lean ====
section
/-! DEFINITION. Well-formedness of instructions. Every check the spec asks for is made by typing and not at run time
(10_state.md R16, 40_bitfield_accessors.md R81): fields have their exact width and the two operands of a form share
one width class, so no ill-formed `Instr` can be written and `Instr.wf` has nothing left to test. The one property
of an instruction that a claim may need as a premise is `Instr.registerDirect` (93_implementation_defined.md U1). -/

namespace Sys2Proof

/-- The `mod` field of the instruction (30_encoding.md R54). -/
def Instr.mode : Instr → Mode
  | .movRm8Reg8 m _ _ => m
  | .movRm16Reg16 m _ _ => m
  | .movReg8Rm8 m _ _ => m
  | .movReg16Rm16 m _ _ => m

/-- Every term of `Instr` is well formed: all 256 values of `byte1` are accepted by each row (30_encoding.md R58). -/
def Instr.wf : Instr → Bool
  | .movRm8Reg8 _ _ _ => true
  | .movRm16Reg16 _ _ _ => true
  | .movReg8Rm8 _ _ _ => true
  | .movReg16Rm16 _ _ _ => true

/-- The premise of any claim that the text is a faithful disassembly: `mod = 11`
(30_encoding.md R61, 93_implementation_defined.md U1). The block itself never tests it. -/
def Instr.registerDirect (i : Instr) : Bool := decide (i.mode = .regDirect)

end Sys2Proof
end

