-- ==== Sys2Proof/Decode.lean ====
section
/-! DEFINITION. The slicer (40_bitfield_accessors.md), the decode dispatch (41_decode_dispatch.md) and the model's own
encoder. Decoding is total and rejects by name. -/

namespace Sys2Proof

/-! ### The supported opcode and the maps between fields and enumerations -/

/-- SUPPORTED_OPCODES: the one value `0b100010` (00_scope.md R6, 30_encoding.md R58). -/
def supportedOpcode : Opcode := 0b100010#6

/-- The table FULL (40_bitfield_accessors.md R78). -/
def Full16.ofSel (v : Selector) : Full16 :=
  match v.toFin with
  | 0 => .ax
  | 1 => .cx
  | 2 => .dx
  | 3 => .bx
  | 4 => .sp
  | 5 => .bp
  | 6 => .si
  | 7 => .di

/-- The table HALF: low bytes first, then high bytes (40_bitfield_accessors.md R79). -/
def Half8.ofSel (v : Selector) : Half8 :=
  match v.toFin with
  | 0 => .al
  | 1 => .cl
  | 2 => .dl
  | 3 => .bl
  | 4 => .ah
  | 5 => .ch
  | 6 => .dh
  | 7 => .bh

/-- The fixed order of the addressing modes (40_bitfield_accessors.md R73). -/
def Mode.ofBits (v : ModBits) : Mode :=
  match v.toFin with
  | 0 => .memNoDisp
  | 1 => .memDisp8
  | 2 => .memDisp16
  | 3 => .regDirect

/-- The selector of a full-width identity, its code on the wires (R80, D4). -/
def Full16.sel : Full16 → Selector
  | .ax => 0#3
  | .cx => 1#3
  | .dx => 2#3
  | .bx => 3#3
  | .sp => 4#3
  | .bp => 5#3
  | .si => 6#3
  | .di => 7#3

/-- The selector of a half-width identity (R80, D4). -/
def Half8.sel : Half8 → Selector
  | .al => 0#3
  | .cl => 1#3
  | .dl => 2#3
  | .bl => 3#3
  | .ah => 4#3
  | .ch => 5#3
  | .dh => 6#3
  | .bh => 7#3

/-- The 2-bit value of a mode, as `f_mod` carries it (R73, R82). -/
def Mode.bits : Mode → ModBits
  | .memNoDisp => 0b00#2
  | .memDisp8 => 0b01#2
  | .memDisp16 => 0b10#2
  | .regDirect => 0b11#2

/-! ### The accessors -/

/-- `opcode()`: `byte0 >> 2`, a logical shift, carried as 6 bits (R70, R84). -/
def Chunk.opcode (c : Chunk) : Opcode := (c.byte0 >>> 2).setWidth 6

/-- `width()`: `byte0[0]`, true is full-width (R71, 30_encoding.md R53). -/
def Chunk.width (c : Chunk) : Bool := c.byte0.getLsbD 0

/-- `direction()`: `byte0[1]`, true makes `reg` the destination (R72). -/
def Chunk.direction (c : Chunk) : Bool := c.byte0.getLsbD 1

/-- `byte1[7:6]`, the raw `mod` bits. -/
def Chunk.modBits (c : Chunk) : ModBits := (c.byte1 >>> 6).setWidth 2

/-- `byte1[5:3]`, the raw `reg` selector. -/
def Chunk.regSel (c : Chunk) : Selector := (c.byte1 >>> 3).setWidth 3

/-- `byte1[2:0]`, the raw `rm` selector. -/
def Chunk.rmSel (c : Chunk) : Selector := c.byte1.setWidth 3

/-- `addressingMode()` (R73). -/
def Chunk.addressingMode (c : Chunk) : Mode := Mode.ofBits c.modBits

/-- `reg()` (R74). -/
def Chunk.reg (c : Chunk) : Full16 := Full16.ofSel c.regSel

/-- `regHalf()` (R75). -/
def Chunk.regHalf (c : Chunk) : Half8 := Half8.ofSel c.regSel

/-- `rm()` (R76): it does not look at `mod`. -/
def Chunk.rm (c : Chunk) : Full16 := Full16.ofSel c.rmSel

/-- `rmHalf()` (R77): it does not look at `mod`. -/
def Chunk.rmHalf (c : Chunk) : Half8 := Half8.ofSel c.rmSel

/-! ### The block's decode function, R90 and R91 -/

/-- `decode_mov` (R91): branch on `width()`, then on `direction()`; `mod` is not read. -/
def decodeMov (c : Chunk) : Decoded :=
  if c.width then
    if c.direction then .movFull c.reg c.rm else .movFull c.rm c.reg
  else
    if c.direction then .movHalf c.regHalf c.rmHalf else .movHalf c.rmHalf c.regHalf

/-- `decode` (R90, R92): the Decoded Instruction, or the opcode of `UnsupportedOpcode`. -/
def blockDecode (c : Chunk) : Except Opcode Decoded :=
  if c.opcode = supportedOpcode then .ok (decodeMov c) else .error c.opcode

/-! ### Decoding to a row of the opcode table -/

/-- The row of spec/opcode_table.json a chunk matches, with its fields. Every row has mask 0xFF00, so the row is told
by `byte0` alone (30_encoding.md R58, R60); a chunk that matches no row is rejected with its opcode (R62). -/
def decodeChunk (c : Chunk) : Except Opcode Instr :=
  if c.byte0 = 0x88#8 then .ok (.movRm8Reg8 c.addressingMode c.regHalf c.rmHalf)
  else if c.byte0 = 0x89#8 then .ok (.movRm16Reg16 c.addressingMode c.reg c.rm)
  else if c.byte0 = 0x8A#8 then .ok (.movReg8Rm8 c.addressingMode c.regHalf c.rmHalf)
  else if c.byte0 = 0x8B#8 then .ok (.movReg16Rm16 c.addressingMode c.reg c.rm)
  else .error c.opcode

/-- Why bytes hold no instruction at their head. -/
inductive DecodeError where
  /-- The opcode field is not `0b100010` (30_encoding.md R62). Raised by `decode`. Safe: the spec's own rejection. -/
  | unsupportedOpcode (op : Opcode)
  /-- Fewer than two bytes are left, which is never a chunk (20_memory.md R37). Raised by `decode`. Safe. -/
  | shortChunk
deriving DecidableEq, Repr

/-- Decoding from bytes: two bytes are consumed, never more (R59, R92), and the rest is returned. -/
def decode : List Byte → Except DecodeError (Instr × List Byte)
  | b0 :: b1 :: rest =>
    match decodeChunk ⟨b0, b1⟩ with
    | .ok i => .ok (i, rest)
    | .error op => .error (.unsupportedOpcode op)
  | _ => .error .shortChunk

/-! ### The encoder: the model's own, the block has none (R65, R98; log 1) -/

/-- `byte1` from its three fields (30_encoding.md R50). -/
def moveByte1 (mod : ModBits) (reg rm : Selector) : Byte := mod ++ reg ++ rm

/-- The two bytes of an instruction, from the rows of 30_encoding.md R58. -/
def encodeChunk : Instr → Chunk
  | .movRm8Reg8 m r b => ⟨0x88#8, moveByte1 m.bits r.sel b.sel⟩
  | .movRm16Reg16 m r b => ⟨0x89#8, moveByte1 m.bits r.sel b.sel⟩
  | .movReg8Rm8 m r b => ⟨0x8A#8, moveByte1 m.bits r.sel b.sel⟩
  | .movReg16Rm16 m r b => ⟨0x8B#8, moveByte1 m.bits r.sel b.sel⟩

/-- The bytes of a chunk in stream order (20_memory.md R32). -/
def Chunk.bytes (c : Chunk) : List Byte := [c.byte0, c.byte1]

/-- The bytes of an instruction in stream order. -/
def encode (i : Instr) : List Byte := (encodeChunk i).bytes

/-! ### The opcode table's numbering -/

/-- The chunk of a table word: `byte0` in bits 15:8, `byte1` in bits 7:0 (30_encoding.md R60, D18; log 12).
Bits at and above `nbits` are zero. -/
def tableChunk (nbits w : Nat) : Chunk :=
  let v := w % 2 ^ nbits
  ⟨BitVec.ofNat 8 (v / 256), BitVec.ofNat 8 v⟩

/-- The instruction this decoder reads from a table word laid out in stream order. -/
def decodeTableWord (nbits w : Nat) : Option Instr :=
  match decode (tableChunk nbits w).bytes with
  | .ok (i, _) => some i
  | .error _ => none

end Sys2Proof
end

