-- ==== Sys2Proof/Machine/State.lean ====
section
/-! DEFINITION. The machine's state as plain data, its reasons to stop, and the state right after reset.
The block's own state is `phase`, `faultCause` and `faultOpcode` (10_state.md R20 to R22) and the line it still presents
(43_stream_driver.md R139); the other fields are its ports, the two external streams, the willingness of the reader and the
consumer, and the one open parameter, held here so that a step can be observed (log 2). -/

namespace Sys2Proof.Machine

/-- The run status (10_state.md R20); the encoding `0b11` is unrepresentable. -/
inductive Phase where
  | run | done | fault
deriving DecidableEq, Repr

/-- `fault_cause` (60_exceptions.md R150); the reserved code 3 is unrepresentable. -/
inductive FaultCause where
  /-- Code 0: no fault, the reset value. -/
  | none
  /-- Code 1: the dispatch met an opcode other than `0b100010` (R151). -/
  | unsupportedOpcode
  /-- Code 2: no raising site (R152, log 13). -/
  | internalInconsistency
deriving DecidableEq, Repr

/-- The slicer's output ports `f_opcode`, `f_d`, `f_w`, `f_mod`, `f_reg`, `f_rm`: raw field values
(40_bitfield_accessors.md R82). -/
structure Slices where
  opcode : Opcode
  d : Bool
  w : Bool
  mod : ModBits
  reg : Selector
  rm : Selector
deriving DecidableEq, Repr

/-- What the external Byte-Pair Reader reads from in one run (43_stream_driver.md R131): the bytes of the stream and,
if a read faults, the number of chunks delivered before the fault (log 10). -/
structure Source where
  bytes : List Byte
  readFaultAt : Option Nat
deriving DecidableEq, Repr

/-- The state of the block with its ports and the two streams around it. -/
structure State where
  /-- `phase` (10_state.md R20). -/
  phase : Phase
  /-- `fault_cause` (10_state.md R21). -/
  faultCause : FaultCause
  /-- `fault_opcode` (10_state.md R21). -/
  faultOpcode : Opcode
  /-- The slicer's ports, absent when no chunk was accepted in the last step (R82, D24; log 4). -/
  slices : Option Slices
  /-- The decoded ports, absent when `dec_valid = 0` (41_decode_dispatch.md R99, D24; log 4). -/
  decoded : Option Decoded
  /-- `out_text` by position, absent when `out_valid = 0` (42_mnemonic_renderer.md R116, D24; log 4). -/
  outText : Option (List Byte)
  /-- The `fault_valid` strobe (43_stream_driver.md R136). -/
  faultValid : Bool
  /-- The text of a line that was accepted and not yet taken by the output consumer: the "outstanding" output of
  43_stream_driver.md R132 and R139. -/
  outstanding : Option (List Byte)
  /-- The input `in_valid`: the reader offers a transaction (43_stream_driver.md R132; log 8). No step writes it. -/
  inValid : Bool
  /-- Whether the output consumer takes a line (43_stream_driver.md R139; log 8). No step writes it. -/
  outReady : Bool
  /-- The input stream, external (20_memory.md R30, R31). -/
  source : Source
  /-- The index `k` of the next chunk, the reader's position (10_state.md R18, D14). -/
  nextChunk : Nat
  /-- The `reset` input: asserted when present, with the stream of the run it starts (70_reset_and_hazards.md R181,
  60_exceptions.md R162; log 9). -/
  resetIn : Option Source
  /-- Every byte written to the output stream so far, external (20_memory.md R46). -/
  output : List Byte
  /-- The parameter LINE_TERMINATOR (43_stream_driver.md R134, D7; log 6). No step writes it. -/
  lineTerminator : List Byte
deriving DecidableEq, Repr

/-- Why a step could stop with a fault. -/
inductive Fault where
  /-- The spec's "impossible fallthrough" (40_bitfield_accessors.md R81, 60_exceptions.md R152). Raised by nobody: the
  fields have their exact width, so the case cannot be written (log 13). Safe: it can never be answered. The fatal
  condition `UnsupportedOpcode` is no `Fault`: the spec describes its entry and a step takes it as a next state. -/
  | internalInconsistency
deriving DecidableEq, Repr

/-- Why a step could be refused. -/
inductive Refusal where
  /-- An instruction that has no meaning in the model yet. Raised by nobody: all four rows have theirs. Safe. -/
  | notModelled (mnemonic : String)
deriving DecidableEq, Repr

/-- The machine right after reset (10_state.md R26, 70_reset_and_hazards.md R180): RUN, an empty fault latch, strobes
low, data ports unspecified, nothing outstanding, the reader at the start of the stream. The stream's content, the absent
read fault, the deasserted reset input, the empty output stream and the willing reader and consumer are DESIGN CHOICES
(logs 8 to 11); the terminator is the spec's default (log 6). -/
def State.reset : State :=
  { phase := .run
    faultCause := .none
    faultOpcode := 0b000000#6
    slices := none
    decoded := none
    outText := none
    faultValid := false
    outstanding := none
    inValid := true
    outReady := true
    source := ⟨[], none⟩
    nextChunk := 0
    resetIn := none
    output := []
    lineTerminator := Config.defaultLineTerminator }

end Sys2Proof.Machine
end

