-- ==== Sys2Proof/Machine/Operands.lean ====
section
/-! DEFINITION. Operand assembly (30_encoding.md R57): the choice of roles from `d` and of the table from `w`; the
slicer's ports of a chunk and of an instruction; the wire form of the Decoded Instruction (41_decode_dispatch.md R99). -/

namespace Sys2Proof.Machine

/-- The destination's operand: `reg` if `d = 1`, else `rm` (30_encoding.md R52, R57). -/
def roleDst {α : Type} (d : Bool) (reg rm : α) : α := if d then reg else rm

/-- The source's operand: `rm` if `d = 1`, else `reg` (30_encoding.md R52, R57). -/
def roleSrc {α : Type} (d : Bool) (reg rm : α) : α := if d then rm else reg

/-- The slicer's ports for an accepted chunk, valid whether or not its opcode is supported
(40_bitfield_accessors.md R82). -/
def chunkSlices (c : Chunk) : Slices :=
  { opcode := c.opcode, d := c.direction, w := c.width, mod := c.modBits, reg := c.regSel, rm := c.rmSel }

/-- The slicer's ports for a move of the given fields. -/
def moveSlices (d w : Bool) (m : Mode) (reg rm : Selector) : Slices :=
  { opcode := supportedOpcode, d := d, w := w, mod := m.bits, reg := reg, rm := rm }

/-- What the sliced fields decode to: one table for both operands, chosen by `w` (30_encoding.md R57); nothing when
the opcode is unsupported. -/
def slicesDecoded (sl : Slices) : Option Decoded :=
  if sl.opcode = supportedOpcode then
    some (if sl.w then
      .movFull (Full16.ofSel (roleDst sl.d sl.reg sl.rm)) (Full16.ofSel (roleSrc sl.d sl.reg sl.rm))
    else
      .movHalf (Half8.ofSel (roleDst sl.d sl.reg sl.rm)) (Half8.ofSel (roleSrc sl.d sl.reg sl.rm)))
  else none

/-- The Decoded Instruction of each row of the opcode table (41_decode_dispatch.md R93 to R96). -/
def instrDecoded : Instr → Decoded
  | .movRm8Reg8 _ reg rm => .movHalf rm reg
  | .movRm16Reg16 _ reg rm => .movFull rm reg
  | .movReg8Rm8 _ reg rm => .movHalf reg rm
  | .movReg16Rm16 _ reg rm => .movFull reg rm

/-- `dec_kind`: 1 is `MovFull`, 0 is `MovHalf` (41_decode_dispatch.md R99). -/
def decKindOf : Decoded → Bool
  | .movFull _ _ => true
  | .movHalf _ _ => false

/-- `dec_dst`: the destination's selector in the table that `dec_kind` names (R99). -/
def decDstOf : Decoded → Selector
  | .movFull dst _ => dst.sel
  | .movHalf dst _ => dst.sel

/-- `dec_src`: the source's selector in the table that `dec_kind` names (R99). -/
def decSrcOf : Decoded → Selector
  | .movFull _ src => src.sel
  | .movHalf _ src => src.sel

/-- The wires `dec_kind`, `dec_dst`, `dec_src`; absent (unspecified) when `dec_valid = 0` (R99, D24). -/
def State.decWires (s : State) : Option (Bool × Selector × Selector) :=
  s.decoded.map fun i => (decKindOf i, decDstOf i, decSrcOf i)

end Sys2Proof.Machine
end

