-- ==== Sys2Proof/Machine/Render.lean ====
section
/-! DEFINITION. The mnemonic renderer (42_mnemonic_renderer.md): a pure, total function of the Decoded Instruction. -/

namespace Sys2Proof.Machine

/-- `NAME` of a full-width identity (R110). -/
def fullName : Full16 → List Char
  | .ax => ['a', 'x']
  | .cx => ['c', 'x']
  | .dx => ['d', 'x']
  | .bx => ['b', 'x']
  | .sp => ['s', 'p']
  | .bp => ['b', 'p']
  | .si => ['s', 'i']
  | .di => ['d', 'i']

/-- `NAME` of a half-width identity (R110). -/
def halfName : Half8 → List Char
  | .al => ['a', 'l']
  | .cl => ['c', 'l']
  | .dl => ['d', 'l']
  | .bl => ['b', 'l']
  | .ah => ['a', 'h']
  | .ch => ['c', 'h']
  | .dh => ['d', 'h']
  | .bh => ['b', 'h']

/-- The mnemonic lookup: the one entry `mov`, for both constructors (R111). -/
def mnemonicOf : Decoded → List Char
  | .movFull _ _ => ['m', 'o', 'v']
  | .movHalf _ _ => ['m', 'o', 'v']

/-- The common template `mov <dst>, <src>` (R112, R113, R114; 90_conflicts.md C5). -/
def moveText (mnemonic dst src : List Char) : List Char :=
  mnemonic ++ [' '] ++ dst ++ [',', ' '] ++ src

/-- The text of a Decoded Instruction as characters (R112, R114). -/
def renderChars (i : Decoded) : List Char :=
  match i with
  | .movFull dst src => moveText (mnemonicOf i) (fullName dst) (fullName src)
  | .movHalf dst src => moveText (mnemonicOf i) (halfName dst) (halfName src)

/-- The byte of a character: its ASCII code, which is its UTF-8 form (R115, 20_memory.md R46; log 15). -/
def charByte (ch : Char) : Byte := BitVec.ofNat 8 ch.toNat

/-- `render`: the ten bytes of the text in position order (R113, R115). -/
def render (i : Decoded) : List Byte := (renderChars i).map charByte

/-- One line of output: the text and the line terminator (43_stream_driver.md R134). -/
def lineBytes (terminator : List Byte) (i : Decoded) : List Byte := render i ++ terminator

/-- `out_text[79:0]` of a text: the byte at position `i` in bits `8*i+7 : 8*i` (R116). -/
def textWires (text : List Byte) : BitVec 80 :=
  text.foldr (fun b acc => (acc <<< 8) ||| b.setWidth 80) 0#80

/-- The port `out_text` as wires; absent (unspecified) when `out_valid = 0` (R116, D24). -/
def State.outTextWires (s : State) : Option (BitVec 80) := s.outText.map textWires

end Sys2Proof.Machine
end

