-- ==== Sys2Proof/Machine/Flags.lean ====
section
/-! DEFINITION. The block has no status flags and no condition codes (10_state.md R19). What it has are status
outputs and strobes, computed here from the state (43_stream_driver.md R132, R134, R137; 41_decode_dispatch.md R99),
the wire codes of its status fields, and what the host makes of the end of a run (R141, 60_exceptions.md R161). -/

namespace Sys2Proof.Machine

/-- The 2-bit code of `phase` (10_state.md R20). -/
def phaseBits : Phase → BitVec 2
  | .run => 0b00#2
  | .done => 0b01#2
  | .fault => 0b10#2

/-- The 2-bit code of `fault_cause` (60_exceptions.md R150). -/
def causeBits : FaultCause → BitVec 2
  | .none => 0#2
  | .unsupportedOpcode => 1#2
  | .internalInconsistency => 2#2

/-- `in_ready`: 1 exactly when `phase = RUN` and no output is outstanding (43_stream_driver.md R132, R139). -/
def State.inReady (s : State) : Bool := decide (s.phase = .run) && s.outstanding.isNone

/-- `exit_ok` (43_stream_driver.md R137). -/
def State.exitOk (s : State) : Bool := decide (s.phase = .done)

/-- `exit_fatal` (43_stream_driver.md R137). -/
def State.exitFatal (s : State) : Bool := decide (s.phase = .fault)

/-- The strobe `dec_valid` (41_decode_dispatch.md R99). -/
def State.decValid (s : State) : Bool := s.decoded.isSome

/-- The strobe `out_valid`: the text is presented, until the consumer takes it (43_stream_driver.md R134, R139; log 8). -/
def State.outValid (s : State) : Bool := s.outText.isSome

/-- The exit code of the run: none while it goes on, 0 for DONE, EXIT_CODE_FATAL for FAULT
(43_stream_driver.md R141; log 7). -/
def State.exitStatus (s : State) : Option Nat :=
  match s.phase with
  | .run => none
  | .done => some 0
  | .fault => some Config.exitCodeFatal.val

/-- The diagnostic the host prints on `fault_valid` (60_exceptions.md R161; log 7). -/
def State.diagnostic (s : State) : Option (List Byte) :=
  if s.faultValid then some (Config.diagText s.faultOpcode) else none

end Sys2Proof.Machine
end

