-- ==== Sys2Proof/Machine/Ops.lean ====
section
/-! DEFINITION. The sequencer's operations (43_stream_driver.md): the reader's transaction, the transitions, taking
the fatal stop and leaving it by reset, emitting a line, and the fetch that a step runs. -/

namespace Sys2Proof.Machine

/-! ### The input side -/

/-- One result of `StreamNext()` (43_stream_driver.md R131). -/
inductive Transaction where
  | pair (c : Chunk)
  | endOfStream
deriving DecidableEq, Repr

/-- The byte sequence the reader is able to deliver: the whole stream, or its prefix up to a read fault
(43_stream_driver.md R140, 93_implementation_defined.md U10). -/
def Source.delivered (src : Source) : List Byte :=
  match src.readFaultAt with
  | none => src.bytes
  | some f => src.bytes.take (2 * f)

/-- `StreamNext()`: chunk `k` is stream bytes `2k` and `2k+1` (20_memory.md R35); `End` when no byte remains, when one
byte remains, or on a read fault (43_stream_driver.md R131). -/
def State.streamNext (s : State) : Transaction :=
  match s.source.delivered[2 * s.nextChunk]?, s.source.delivered[2 * s.nextChunk + 1]? with
  | some b0, some b1 => .pair ⟨b0, b1⟩
  | _, _ => .endOfStream

/-- What the reader offers the block in this step: with `in_valid = 0` nothing, and the other inputs are don't-care, without
a value (43_stream_driver.md R132; 92_eei_decisions.md D24). -/
def State.offered (s : State) : Option Transaction := if s.inValid then some s.streamNext else none

/-- The input `in_end`, absent (don't-care) with `in_valid = 0` (43_stream_driver.md R132, D24). -/
def State.inEnd (s : State) : Option Bool := s.offered.map (fun tr => decide (tr = .endOfStream))

/-- The input `in_byte0`, absent with `in_valid = 0` (don't-care) and with `in_end` (ignored) (43_stream_driver.md R132, D24). -/
def State.inByte0 (s : State) : Option Byte :=
  match s.offered with
  | some (.pair c) => some c.byte0
  | some .endOfStream => none
  | none => none

/-- The input `in_byte1`, absent with `in_valid = 0` (don't-care) and with `in_end` (ignored) (43_stream_driver.md R132, D24). -/
def State.inByte1 (s : State) : Option Byte :=
  match s.offered with
  | some (.pair c) => some c.byte1
  | some .endOfStream => none
  | none => none

/-- The reader has delivered a chunk: its position advances by one chunk, 2 bytes (10_state.md R18, R35; log 17). -/
def State.advance (s : State) : State := { s with nextChunk := s.nextChunk + 1 }

/-! ### The transitions -/

/-- A step in which no chunk is accepted: strobes low, data ports unspecified (92_eei_decisions.md D24; logs 4, 5). -/
def State.noChunk (s : State) : State :=
  { s with slices := none, decoded := none, outText := none, faultValid := false }

/-- Clean end (43_stream_driver.md R135): `phase <- DONE`, no output, the fault latch kept. -/
def State.cleanEnd (s : State) : State :=
  { s with phase := .done, slices := none, decoded := none, outText := none, faultValid := false }

/-- Taking the fatal stop (60_exceptions.md R159, R160; 43_stream_driver.md R136): the cause and the opcode are
latched, `phase <- FAULT`, no line; the slicer's ports are the chunk's, the decoded and text ports unspecified. -/
def State.fatalStop (cause : FaultCause) (op : Opcode) (c : Chunk) (s : State) : State :=
  { s with
    phase := .fault
    faultCause := cause
    faultOpcode := op
    slices := some (chunkSlices c)
    decoded := none
    outText := none
    faultValid := true }

/-- The only way out of DONE and FAULT (60_exceptions.md R162; 70_reset_and_hazards.md R180, R181): the state of R26,
the reader at chunk 0 of the new run's stream; a line not yet handed to the consumer is dropped, lines already emitted
stay. -/
def State.applyReset (src : Source) (s : State) : State :=
  { s with
    phase := .run
    faultCause := .none
    faultOpcode := 0b000000#6
    slices := none
    decoded := none
    outText := none
    faultValid := false
    outstanding := none
    source := src
    nextChunk := 0
    resetIn := none }

/-- Accepting a chunk that decodes (43_stream_driver.md R133): all ports take its values and its line is presented;
`phase` stays RUN. -/
def State.presentMove (sl : Slices) (i : Decoded) (s : State) : State :=
  { s with
    slices := some sl
    decoded := some i
    outText := some (render i)
    faultValid := false
    outstanding := some (render i) }

/-- The bytes of the outstanding line, terminator included (43_stream_driver.md R134). -/
def State.pendingLine (s : State) : List Byte :=
  match s.outstanding with
  | some text => text ++ s.lineTerminator
  | none => []

/-- The output side of a step (43_stream_driver.md R134, R139): a consumer that takes the outstanding line gets it whole,
appended to the output stream; one that does not leaves it outstanding. -/
def State.consume (s : State) : State :=
  { s with
    output := s.output ++ (if s.outReady then s.pendingLine else [])
    outstanding := if s.outReady then none else s.outstanding }

/-- Accept, decode, render and emit in one step: the line is presented, and taken at once by a willing consumer
(43_stream_driver.md R133, R139). -/
def State.emitMove (sl : Slices) (i : Decoded) (s : State) : State := (s.presentMove sl i).consume

/-- The shared meaning of the four moves: with `in_ready = 1` the move is decoded, rendered and emitted
(43_stream_driver.md R133); with `in_ready = 0` it is never taken and nothing changes (R138, R139; log 16). -/
def acceptMove (sl : Slices) (i : Decoded) (s : State) : Host.Outcome State Fault Refusal :=
  if s.inReady then .next (s.emitMove sl i) else .next s

/-! ### One step's fetch -/

/-- What one step finds: an instruction to run on a state, or a transition that needs no instruction. -/
inductive Fetched where
  | instr (i : Instr) (s : State)
  | settled (s : State)
deriving DecidableEq, Repr

/-- The sequencer's loop body up to the instruction (43_stream_driver.md R130): `reset` first (70_reset_and_hazards.md
R181, log 9); with `in_ready = 1` what is offered is taken (R132): nothing, `End`, the clean end (R135), or a chunk, which
either decodes or is the fatal stop (R133, R136); with a line outstanding the block waits for the consumer (R139);
otherwise the run is over and nothing is accepted (R138, log 3). -/
def fetch (s : State) : Fetched :=
  match s.resetIn with
  | some src => .settled (s.applyReset src)
  | none =>
    if s.inReady then
      match s.offered with
      | none => .settled s.noChunk
      | some .endOfStream => .settled s.cleanEnd
      | some (.pair c) =>
        match decodeChunk c with
        | .ok i => .instr i s.advance
        | .error op => .settled (s.advance.fatalStop .unsupportedOpcode op c)
    else if s.phase = .run ∧ s.outstanding ≠ none then .settled s.consume
    else .settled s.noChunk

/-- The stream with the bytes of a chunk put at chunk index `k`, zero bytes filling a stream that ends before it. -/
def Source.putChunk (src : Source) (k : Nat) (c : Chunk) : Source :=
  { bytes := src.bytes.take (2 * k) ++ List.replicate (2 * k - src.bytes.length) 0#8 ++ c.bytes
      ++ src.bytes.drop (2 * k + 2)
    readFaultAt := src.readFaultAt.filter (fun f => decide (k < f)) }

/-- The state whose very next step accepts the chunk `c` (log 11): the chunk stands where the reader reads next, no
read fault comes before it, no reset is asserted, the reader offers it, and the sequencer is in RUN with RUN's empty fault
latch and nothing outstanding. -/
def State.withNextChunk (c : Chunk) (s : State) : State :=
  { s with
    phase := .run
    faultCause := .none
    faultOpcode := 0b000000#6
    outstanding := none
    inValid := true
    source := s.source.putChunk s.nextChunk c
    resetIn := none }

end Sys2Proof.Machine
end

