-- ==== Sys2Proof/Machine/Move.lean ====
section
/-! DEFINITION. The four forms of `mov` (41_decode_dispatch.md R93 to R96). What each computes and writes is the
Decoded Instruction handed to the renderer, and its line; no register is read or written (10_state.md R17). -/

namespace Sys2Proof.Machine

/-- 0x88, `mov rm8, reg8`: half-width, `reg` is the source (R93). -/
def execMovRm8Reg8 (m : Mode) (reg rm : Half8) (s : State) : Host.Outcome State Fault Refusal :=
  acceptMove (moveSlices false false m reg.sel rm.sel) (.movHalf rm reg) s

/-- 0x89, `mov rm16, reg16`: full-width, `reg` is the source (R94). -/
def execMovRm16Reg16 (m : Mode) (reg rm : Full16) (s : State) : Host.Outcome State Fault Refusal :=
  acceptMove (moveSlices false true m reg.sel rm.sel) (.movFull rm reg) s

/-- 0x8A, `mov reg8, rm8`: half-width, `reg` is the destination (R95). -/
def execMovReg8Rm8 (m : Mode) (reg rm : Half8) (s : State) : Host.Outcome State Fault Refusal :=
  acceptMove (moveSlices true false m reg.sel rm.sel) (.movHalf reg rm) s

/-- 0x8B, `mov reg16, rm16`: full-width, `reg` is the destination (R96). -/
def execMovReg16Rm16 (m : Mode) (reg rm : Full16) (s : State) : Host.Outcome State Fault Refusal :=
  acceptMove (moveSlices true true m reg.sel rm.sel) (.movFull reg rm) s

end Sys2Proof.Machine
end

