-- ==== Sys2Proof/Machine/Dispatch.lean ====
section
/-! DEFINITION. One arm per constructor of Instr. -/

namespace Sys2Proof.Machine

def exec (i : Instr) (s : State) : Host.Outcome State Fault Refusal :=
  match i with
  | .movRm8Reg8 m reg rm => Sys2Proof.Machine.execMovRm8Reg8 m reg rm s
  | .movRm16Reg16 m reg rm => Sys2Proof.Machine.execMovRm16Reg16 m reg rm s
  | .movReg8Rm8 m reg rm => Sys2Proof.Machine.execMovReg8Rm8 m reg rm s
  | .movReg16Rm16 m reg rm => Sys2Proof.Machine.execMovReg16Rm16 m reg rm s

end Sys2Proof.Machine
end

