-- ==== Sys2Proof/Machine/Step.lean ====
section
/-! DEFINITION. One step: one input transaction of the sequencer, or a wait for the reader or the consumer, or a reset, or,
after the end of a run, nothing (43_stream_driver.md R130 to R139). -/

namespace Sys2Proof.Machine

/-- A transaction is accepted, decoded, rendered and presented in one atomic step (43_stream_driver.md R139). -/
def step (s : State) : Host.Outcome State Fault Refusal :=
  match fetch s with
  | .instr i t => exec i t
  | .settled t => .next t

/-- `s` with a word of the opcode table stored where the next step reads its chunk (log 11, log 12). -/
def State.withFetchWord (s : State) (nbits w : Nat) : State := s.withNextChunk (tableChunk nbits w)

end Sys2Proof.Machine
end

