-- ==== Sys2Proof/Safety.lean ====
section
/-! DEFINITION. What a legal state and a right run are, in the terms the claims use: the reference semantics of a
whole run (43_stream_driver.md R140), and the invariants of the sequencer's latch, ports, position and output. -/

namespace Sys2Proof.Machine

/-! ### The reference semantics of a run -/

/-- How a run ended: the status of 43_stream_driver.md R140. -/
inductive RunStatus where
  | done
  | fault (op : Opcode)
deriving DecidableEq, Repr

/-- What a run gives: the output bytes and the status (R140). -/
structure RunResult where
  output : List Byte
  status : RunStatus
deriving DecidableEq, Repr

/-- `run(bytes)` of 43_stream_driver.md R140, chunk after chunk, a lone last byte dropped. It is written from the
dispatch R90 and the renderer R112 to R114 alone, and knows nothing of `step`. -/
def referenceRun (terminator : List Byte) : List Byte → RunResult
  | b0 :: b1 :: rest =>
    match blockDecode ⟨b0, b1⟩ with
    | .ok i =>
      let r := referenceRun terminator rest
      { output := lineBytes terminator i ++ r.output, status := r.status }
    | .error op => { output := [], status := .fault op }
  | _ => { output := [], status := .done }

/-- The status a state shows once its run is over, and the one of its prefix read so far before that. -/
def State.runStatus (s : State) : RunStatus :=
  match s.phase with
  | .run => .done
  | .done => .done
  | .fault => .fault s.faultOpcode

/-- The bytes of the whole chunks read so far in this run (20_memory.md R35). -/
def State.consumed (s : State) : List Byte := s.source.delivered.take (2 * s.nextChunk)

/-- The bytes the reader can still deliver in this run. -/
def State.remaining (s : State) : List Byte := s.source.delivered.drop (2 * s.nextChunk)

/-- A transaction happens in the next step: `in_valid` and `in_ready` are both 1 and no reset is asserted
(43_stream_driver.md R132). -/
abbrev State.Accepting (s : State) : Prop :=
  s.phase = .run ∧ s.outstanding = none ∧ s.inValid = true ∧ s.resetIn = none

/-! ### Invariants -/

/-- The fault latch (10_state.md R21, 60_exceptions.md R151): at its reset value outside FAULT; in FAULT it holds the
cause UnsupportedOpcode and an opcode that is not the supported one. -/
abbrev State.LatchOk (s : State) : Prop :=
  (s.phase ≠ .fault → s.faultCause = .none ∧ s.faultOpcode = 0b000000#6) ∧
  (s.phase = .fault → s.faultCause = .unsupportedOpcode ∧ s.faultOpcode ≠ supportedOpcode)

/-- The output ports agree with each other: the decoded ports are what the sliced fields decode to (30_encoding.md
R57), the text is the rendering of the decoded ports, an outstanding line is the presented one, a decoded chunk leaves
the phase RUN (43_stream_driver.md R133), and `fault_valid` goes with FAULT and a sliced opcode equal to
`fault_opcode` (60_exceptions.md R160). -/
abbrev State.PortsOk (s : State) : Prop :=
  s.decoded = s.slices.bind slicesDecoded ∧
  s.outText = s.decoded.map render ∧
  (s.outstanding = none ∨ s.outstanding = s.outText) ∧
  (s.decValid = true → s.phase = .run) ∧
  (s.faultValid = true ↔ s.slices.isSome ∧ s.decoded = none) ∧
  (s.faultValid = true → s.phase = .fault ∧ s.slices.map Slices.opcode = some s.faultOpcode)

/-- The reader has delivered only whole chunks of the stream (10_state.md R18, 20_memory.md R35 to R37). -/
abbrev State.PositionOk (s : State) : Prop := 2 * s.nextChunk ≤ s.source.delivered.length

/-- What holds of a legal state. -/
abbrev State.Legal (s : State) : Prop := s.LatchOk ∧ s.PortsOk ∧ s.PositionOk

/-- The output written since the run began, after the bytes `before` that stood there and with the outstanding line counted
in, is exactly what the reference semantics gives for the chunks read so far, and so is the status; a run is DONE only when
no whole chunk is left. -/
abbrev State.OutputFollowsReference (before : List Byte) (s : State) : Prop :=
  s.PositionOk ∧
  s.output ++ s.pendingLine = before ++ (referenceRun s.lineTerminator s.consumed).output ∧
  (referenceRun s.lineTerminator s.consumed).status = s.runStatus ∧
  (s.phase = .done → s.remaining.length < Config.chunkBytes)

/-! ### Frames -/

/-- What no accepted move changes: the run status, the fault latch, the input stream and its position (the fetch advances
the reader before the move runs), the inputs and the parameter (43_stream_driver.md R133, 10_state.md R20, R21). -/
abbrev MoveFrame (s t : State) : Prop :=
  t.phase = s.phase ∧ t.faultCause = s.faultCause ∧ t.faultOpcode = s.faultOpcode ∧ t.source = s.source ∧
  t.nextChunk = s.nextChunk ∧ t.resetIn = s.resetIn ∧ t.lineTerminator = s.lineTerminator ∧
  t.inValid = s.inValid ∧ t.outReady = s.outReady

/-- One line of the given text is emitted (43_stream_driver.md R134, R139): a willing consumer has it whole, after what stood
there; otherwise it is outstanding and nothing is written. -/
abbrev EmitsLine (s t : State) (text : List Byte) : Prop :=
  (s.outReady = true → t.output = s.output ++ text ++ s.lineTerminator ∧ t.outstanding = none) ∧
  (s.outReady = false → t.output = s.output ∧ t.outstanding = some text)

/-- The text `mov <dst>, <src>` for two names, written out, as bytes (42_mnemonic_renderer.md R112 to R114). -/
def movBytes (dst src : List Char) : List Byte :=
  (['m', 'o', 'v', ' '] ++ dst ++ [',', ' '] ++ src).map charByte

/-- The chunk `k` of a byte sequence has the supported opcode (30_encoding.md R58, 20_memory.md R35). -/
abbrev chunkSupported (bytes : List Byte) (k : Nat) : Prop :=
  (bytes.getD (2 * k) 0#8).toNat / 4 = 34

end Sys2Proof.Machine
end

