-- ==== Sys2Proof/Certificates/Slice0/Obligations.lean ====
section
/-! DEFINITION. The statements for the provers. Each docstring names the rule of spec/ it formalises. -/

open Sys2Proof Sys2Proof.Machine

/-! ### Encoding -/

/-- Words written out from 30_encoding.md R50 and R58 decode to the instruction they stand for, and words just outside
the four rows, the byte 0x22 that equals the opcode as a number, and a lone byte are rejected by name. -/
def Obligations.WordsOfTheEncodingTableDecode : Prop :=
  decode [0b10001000#8, 0b11100000#8] = .ok (.movRm8Reg8 .regDirect .ah .al, []) ∧
  decode [0b10001001#8, 0b11000011#8] = .ok (.movRm16Reg16 .regDirect .ax .bx, []) ∧
  decode [0b10001010#8, 0b11100000#8] = .ok (.movReg8Rm8 .regDirect .ah .al, []) ∧
  decode [0b10001011#8, 0b00000011#8, 0x01#8] = .ok (.movReg16Rm16 .memNoDisp .ax .bx, [0x01#8]) ∧
  decode [0b10001000#8, 0b10110101#8] = .ok (.movRm8Reg8 .memDisp16 .dh .ch, []) ∧
  decode [0b10001011#8, 0b01111111#8] = .ok (.movReg16Rm16 .memDisp8 .di .di, []) ∧
  decode [0x87#8, 0xFF#8] = .error (.unsupportedOpcode 0b100001#6) ∧
  decode [0x8C#8, 0xC0#8] = .error (.unsupportedOpcode 0b100011#6) ∧
  decode [0x22#8, 0xC0#8] = .error (.unsupportedOpcode 0b001000#6) ∧
  decode [0x8B#8] = .error .shortChunk

/-- Decoding an encoded instruction gives it back with every operand, and what follows is untouched. The encoder is
the model's own (log 1). -/
def Obligations.DecodeOfEncodeIsTheInstruction : Prop :=
  ∀ (i : Instr) (rest : List Byte), (encode i).length = 2 ∧ decode (encode i ++ rest) = .ok (i, rest)

/-- Bytes that decode are the encoding of what they decode to: each word has one meaning (the encoder is the model's
own, log 1). -/
def Obligations.DecodedBytesAreTheirEncoding : Prop :=
  ∀ (bytes rest : List Byte) (i : Instr), decode bytes = .ok (i, rest) → bytes = encode i ++ rest

/-- 30_encoding.md R58, R62: a chunk decodes exactly when `byte0` lies in 0x88 to 0x8B, whatever `byte1` is. -/
def Obligations.ExactlyFourFirstBytesDecode : Prop :=
  ∀ c : Chunk,
    ((∃ i, decodeChunk c = .ok i) ↔ 0x88 ≤ c.byte0.toNat ∧ c.byte0.toNat ≤ 0x8B) ∧
    (¬ (0x88 ≤ c.byte0.toNat ∧ c.byte0.toNat ≤ 0x8B) → decodeChunk c = .error c.opcode)

/-- 41_decode_dispatch.md R90 to R96: decoding by the rows of the opcode table and taking the row's Decoded
Instruction is the dispatch's `decode`. -/
def Obligations.TableRowsAgreeWithTheDispatch : Prop :=
  ∀ c : Chunk, (decodeChunk c).map instrDecoded = blockDecode c

/-- 41_decode_dispatch.md R90, R91: the opcode test first, then `width()`, then `direction()`, as values of `byte0`. -/
def Obligations.DispatchBranchesOnWidthThenDirection : Prop :=
  ∀ c : Chunk,
    (c.byte0.toNat / 4 = 34 → blockDecode c = .ok
      (if c.byte0.toNat % 2 = 1 then
        if c.byte0.toNat / 2 % 2 = 1 then .movFull c.reg c.rm else .movFull c.rm c.reg
      else
        if c.byte0.toNat / 2 % 2 = 1 then .movHalf c.regHalf c.rmHalf else .movHalf c.rmHalf c.regHalf)) ∧
    (c.byte0.toNat / 4 ≠ 34 → blockDecode c = .error (BitVec.ofNat 6 (c.byte0.toNat / 4)))

/-- 40_bitfield_accessors.md R70 to R72 and R74 to R77, each accessor as arithmetic on the byte's value. -/
def Obligations.AccessorsSliceTheBytes : Prop :=
  ∀ c : Chunk,
    c.opcode.toNat = c.byte0.toNat / 4 ∧
    (c.width = true ↔ c.byte0.toNat % 2 = 1) ∧
    (c.direction = true ↔ c.byte0.toNat / 2 % 2 = 1) ∧
    c.reg = Full16.ofSel (BitVec.ofNat 3 (c.byte1.toNat / 8)) ∧
    c.regHalf = Half8.ofSel (BitVec.ofNat 3 (c.byte1.toNat / 8)) ∧
    c.rm = Full16.ofSel (BitVec.ofNat 3 c.byte1.toNat) ∧
    c.rmHalf = Half8.ofSel (BitVec.ofNat 3 c.byte1.toNat)

/-- 40_bitfield_accessors.md R73: the mode of each quarter of `byte1`, and the map is a bijection. -/
def Obligations.AddressingModeOfEachQuarter : Prop :=
  (∀ c : Chunk,
    (c.byte1.toNat / 64 = 0 → c.addressingMode = .memNoDisp) ∧
    (c.byte1.toNat / 64 = 1 → c.addressingMode = .memDisp8) ∧
    (c.byte1.toNat / 64 = 2 → c.addressingMode = .memDisp16) ∧
    (c.byte1.toNat / 64 = 3 → c.addressingMode = .regDirect)) ∧
  (∀ v : ModBits, (Mode.ofBits v).bits = v) ∧ (∀ m : Mode, Mode.ofBits m.bits = m)

/-- 40_bitfield_accessors.md R78, R79: the two tables in selector order. -/
def Obligations.RegisterTablesInSelectorOrder : Prop :=
  [0#3, 1#3, 2#3, 3#3, 4#3, 5#3, 6#3, 7#3].map Full16.ofSel = [.ax, .cx, .dx, .bx, .sp, .bp, .si, .di] ∧
  [0#3, 1#3, 2#3, 3#3, 4#3, 5#3, 6#3, 7#3].map Half8.ofSel = [.al, .cl, .dl, .bl, .ah, .ch, .dh, .bh]

/-- 40_bitfield_accessors.md R80: both tables are bijections, so the selector is recovered from the identity. -/
def Obligations.SelectorTablesAreBijections : Prop :=
  (∀ v : Selector, (Full16.ofSel v).sel = v) ∧ (∀ r : Full16, Full16.ofSel r.sel = r) ∧
  (∀ v : Selector, (Half8.ofSel v).sel = v) ∧ (∀ r : Half8, Half8.ofSel r.sel = r)

/-- 41_decode_dispatch.md R98: exchanging `reg` with `rm` and flipping `d` gives the same Decoded Instruction, and each
Decoded Instruction has exactly eight encodings. -/
def Obligations.EachDecodedInstructionHasEightChunks : Prop :=
  (∀ (m : Mode) (a b : Full16),
    blockDecode (encodeChunk (.movRm16Reg16 m a b)) = blockDecode (encodeChunk (.movReg16Rm16 m b a))) ∧
  (∀ (m : Mode) (a b : Half8),
    blockDecode (encodeChunk (.movRm8Reg8 m a b)) = blockDecode (encodeChunk (.movReg8Rm8 m b a))) ∧
  (∀ d : Decoded, ∃ chunks : List Chunk,
    chunks.Nodup ∧ chunks.length = 8 ∧ ∀ c, blockDecode c = .ok d ↔ c ∈ chunks)

/-! ### Rendering -/

/-- 42_mnemonic_renderer.md R110: the sixteen names, two letters each, in selector order, all distinct. -/
def Obligations.RegisterNamesInSelectorOrder : Prop :=
  [0#3, 1#3, 2#3, 3#3, 4#3, 5#3, 6#3, 7#3].map (fun v => fullName (Full16.ofSel v)) =
    [['a', 'x'], ['c', 'x'], ['d', 'x'], ['b', 'x'], ['s', 'p'], ['b', 'p'], ['s', 'i'], ['d', 'i']] ∧
  [0#3, 1#3, 2#3, 3#3, 4#3, 5#3, 6#3, 7#3].map (fun v => halfName (Half8.ofSel v)) =
    [['a', 'l'], ['c', 'l'], ['d', 'l'], ['b', 'l'], ['a', 'h'], ['c', 'h'], ['d', 'h'], ['b', 'h']] ∧
  (∀ a b : Full16, fullName a = fullName b → a = b) ∧ (∀ a b : Half8, halfName a = halfName b → a = b) ∧
  (∀ (a : Full16) (b : Half8), fullName a ≠ halfName b)

/-- 42_mnemonic_renderer.md R112 to R114: the ten positions of the text, for both constructors. -/
def Obligations.TextHasTenFixedPositions : Prop :=
  (∀ i : Decoded, (renderChars i).length = 10) ∧
  (∀ dst src : Full16, ∃ d0 d1 s0 s1, fullName dst = [d0, d1] ∧ fullName src = [s0, s1] ∧
    renderChars (.movFull dst src) = ['m', 'o', 'v', ' ', d0, d1, ',', ' ', s0, s1]) ∧
  (∀ dst src : Half8, ∃ d0 d1 s0 s1, halfName dst = [d0, d1] ∧ halfName src = [s0, s1] ∧
    renderChars (.movHalf dst src) = ['m', 'o', 'v', ' ', d0, d1, ',', ' ', s0, s1])

/-- 42_mnemonic_renderer.md section 2, R115, whose codes the spec marks as general knowledge (G3, log 15): the byte of each
of the fifteen characters, the names as byte pairs, and no other byte is ever rendered. -/
def Obligations.TextBytesAreTheAsciiCodes : Prop :=
  [' ', ',', 'a', 'b', 'c', 'd', 'h', 'i', 'l', 'm', 'o', 'p', 's', 'v', 'x'].map charByte =
    [0x20#8, 0x2C#8, 0x61#8, 0x62#8, 0x63#8, 0x64#8, 0x68#8, 0x69#8, 0x6C#8, 0x6D#8, 0x6F#8, 0x70#8, 0x73#8, 0x76#8,
      0x78#8] ∧
  [Full16.ax, .cx, .dx, .bx, .sp, .bp, .si, .di].map (fun r => (fullName r).map charByte) =
    [[0x61#8, 0x78#8], [0x63#8, 0x78#8], [0x64#8, 0x78#8], [0x62#8, 0x78#8], [0x73#8, 0x70#8], [0x62#8, 0x70#8],
      [0x73#8, 0x69#8], [0x64#8, 0x69#8]] ∧
  [Half8.al, .cl, .dl, .bl, .ah, .ch, .dh, .bh].map (fun r => (halfName r).map charByte) =
    [[0x61#8, 0x6C#8], [0x63#8, 0x6C#8], [0x64#8, 0x6C#8], [0x62#8, 0x6C#8], [0x61#8, 0x68#8], [0x63#8, 0x68#8],
      [0x64#8, 0x68#8], [0x62#8, 0x68#8]] ∧
  (∀ (i : Decoded) (b : Byte), b ∈ render i →
    b ∈ [' ', ',', 'a', 'b', 'c', 'd', 'h', 'i', 'l', 'm', 'o', 'p', 's', 'v', 'x'].map charByte) ∧
  render (.movFull .ax .bx) = [0x6D#8, 0x6F#8, 0x76#8, 0x20#8, 0x61#8, 0x78#8, 0x2C#8, 0x20#8, 0x62#8, 0x78#8]

/-- 42_mnemonic_renderer.md R118: the text determines the Decoded Instruction, and each line is the output of exactly
eight chunks. -/
def Obligations.TextDeterminesTheInstruction : Prop :=
  (∀ a b : Decoded, render a = render b → a = b) ∧
  (∀ d : Decoded, ∃ chunks : List Chunk, chunks.Nodup ∧ chunks.length = 8 ∧
    ∀ c, (∃ e, blockDecode c = .ok e ∧ render e = render d) ↔ c ∈ chunks)

/-- 42_mnemonic_renderer.md R116: the byte at position `k` of the text is in bits `8k+7 : 8k` of `out_text`. -/
def Obligations.TextWiresPackByPosition : Prop :=
  ∀ (i : Decoded) (k : Nat), k < 10 → (render i)[k]? = some ((textWires (render i)).extractLsb' (8 * k) 8)

/-! ### What each instruction does -/

/-- 41_decode_dispatch.md R93 with 43_stream_driver.md R133, R134, R139: `mov rm8, reg8` completes whenever `in_ready = 1`: its
ports, its one line (handshake: log 8), and its frame. -/
def Obligations.MovRm8Reg8PrintsRmThenReg : Prop :=
  ∀ (m : Mode) (reg rm : Half8) (s : State), s.inReady = true →
    ∃ t, exec (.movRm8Reg8 m reg rm) s = .next t ∧
      t.decoded = some (.movHalf rm reg) ∧
      t.slices = some ⟨0b100010#6, false, false, m.bits, reg.sel, rm.sel⟩ ∧
      t.decWires = some (false, rm.sel, reg.sel) ∧
      t.outText = some (movBytes (halfName rm) (halfName reg)) ∧
      EmitsLine s t (movBytes (halfName rm) (halfName reg)) ∧
      t.faultValid = false ∧ MoveFrame s t

/-- 41_decode_dispatch.md R94 with 43_stream_driver.md R133, R134, R139: `mov rm16, reg16` completes whenever `in_ready = 1`: its
ports, its one line (handshake: log 8), and its frame. -/
def Obligations.MovRm16Reg16PrintsRmThenReg : Prop :=
  ∀ (m : Mode) (reg rm : Full16) (s : State), s.inReady = true →
    ∃ t, exec (.movRm16Reg16 m reg rm) s = .next t ∧
      t.decoded = some (.movFull rm reg) ∧
      t.slices = some ⟨0b100010#6, false, true, m.bits, reg.sel, rm.sel⟩ ∧
      t.decWires = some (true, rm.sel, reg.sel) ∧
      t.outText = some (movBytes (fullName rm) (fullName reg)) ∧
      EmitsLine s t (movBytes (fullName rm) (fullName reg)) ∧
      t.faultValid = false ∧ MoveFrame s t

/-- 41_decode_dispatch.md R95 with 43_stream_driver.md R133, R134, R139: `mov reg8, rm8` completes whenever `in_ready = 1`: its
ports, its one line (handshake: log 8), and its frame. -/
def Obligations.MovReg8Rm8PrintsRegThenRm : Prop :=
  ∀ (m : Mode) (reg rm : Half8) (s : State), s.inReady = true →
    ∃ t, exec (.movReg8Rm8 m reg rm) s = .next t ∧
      t.decoded = some (.movHalf reg rm) ∧
      t.slices = some ⟨0b100010#6, true, false, m.bits, reg.sel, rm.sel⟩ ∧
      t.decWires = some (false, reg.sel, rm.sel) ∧
      t.outText = some (movBytes (halfName reg) (halfName rm)) ∧
      EmitsLine s t (movBytes (halfName reg) (halfName rm)) ∧
      t.faultValid = false ∧ MoveFrame s t

/-- 41_decode_dispatch.md R96 with 43_stream_driver.md R133, R134, R139: `mov reg16, rm16` completes whenever `in_ready = 1`: its
ports, its one line (handshake: log 8), and its frame. -/
def Obligations.MovReg16Rm16PrintsRegThenRm : Prop :=
  ∀ (m : Mode) (reg rm : Full16) (s : State), s.inReady = true →
    ∃ t, exec (.movReg16Rm16 m reg rm) s = .next t ∧
      t.decoded = some (.movFull reg rm) ∧
      t.slices = some ⟨0b100010#6, true, true, m.bits, reg.sel, rm.sel⟩ ∧
      t.decWires = some (true, reg.sel, rm.sel) ∧
      t.outText = some (movBytes (fullName reg) (fullName rm)) ∧
      EmitsLine s t (movBytes (fullName reg) (fullName rm)) ∧
      t.faultValid = false ∧ MoveFrame s t

/-- The model's choice (log 16), after 43_stream_driver.md R138, R139: a move offered while `in_ready = 0` is never taken and
nothing at all changes. -/
def Obligations.MoveIsNotTakenWhenNotReady : Prop :=
  ∀ (i : Instr) (s : State), s.inReady = false → exec i s = .next s

/-- 41_decode_dispatch.md R93 to R96 from the bytes: with each of the four first bytes next, and ANY second byte, one
step decodes the form's operands through the form's table, whatever `mod` is, and emits its line as 43_stream_driver.md R133,
R134 and R139 say, in the model's handshake (log 8). -/
def Obligations.StepPrintsEachRowForEverySecondByte : Prop :=
  ∀ (s : State) (b1 : Byte), s.Accepting →
    let regHalf := Half8.ofSel (BitVec.ofNat 3 (b1.toNat / 8))
    let rmHalf := Half8.ofSel (BitVec.ofNat 3 b1.toNat)
    let regFull := Full16.ofSel (BitVec.ofNat 3 (b1.toNat / 8))
    let rmFull := Full16.ofSel (BitVec.ofNat 3 b1.toNat)
    (s.streamNext = .pair ⟨0x88#8, b1⟩ → ∃ t, step s = .next t ∧ MoveFrame s.advance t ∧
      t.decoded = some (.movHalf rmHalf regHalf) ∧ EmitsLine s t (movBytes (halfName rmHalf) (halfName regHalf))) ∧
    (s.streamNext = .pair ⟨0x89#8, b1⟩ → ∃ t, step s = .next t ∧ MoveFrame s.advance t ∧
      t.decoded = some (.movFull rmFull regFull) ∧ EmitsLine s t (movBytes (fullName rmFull) (fullName regFull))) ∧
    (s.streamNext = .pair ⟨0x8A#8, b1⟩ → ∃ t, step s = .next t ∧ MoveFrame s.advance t ∧
      t.decoded = some (.movHalf regHalf rmHalf) ∧ EmitsLine s t (movBytes (halfName regHalf) (halfName rmHalf))) ∧
    (s.streamNext = .pair ⟨0x8B#8, b1⟩ → ∃ t, step s = .next t ∧ MoveFrame s.advance t ∧
      t.decoded = some (.movFull regFull rmFull) ∧ EmitsLine s t (movBytes (fullName regFull) (fullName rmFull)))

/-! ### The step -/

/-- When a transaction happens and the bytes the reader delivers next decode to an instruction, a step is that instruction's
meaning on the state whose reader has moved past its two bytes and whose other fields are unchanged. -/
def Obligations.StepRunsTheDecodedInstruction : Prop :=
  ∀ (s : State) (i : Instr) (rest : List Byte),
    s.Accepting → decode s.remaining = .ok (i, rest) →
      step s = exec i s.advance ∧ s.advance.remaining = rest ∧ s.advance = { s with nextChunk := s.nextChunk + 1 }

/-- 43_stream_driver.md R133: a transaction with a chunk of the supported opcode: all ports take the chunk's values,
exactly one line is emitted, the phase stays RUN, and the reader stands at the next chunk. That an unwilling consumer leaves
the line outstanding and unwritten is R139's handshake as the model has it (log 8). -/
def Obligations.AcceptedChunkEmitsOneLine : Prop :=
  ∀ (s : State) (c : Chunk), s.Accepting → s.streamNext = .pair c → c.opcode = 0b100010#6 →
    ∃ t i, step s = .next t ∧ blockDecode c = .ok i ∧
      t.slices = some ⟨c.opcode, c.direction, c.width, c.modBits, c.regSel, c.rmSel⟩ ∧
      t.decoded = some i ∧ t.outText = some (render i) ∧ EmitsLine s t (render i) ∧
      t.faultValid = false ∧ MoveFrame s.advance t ∧ t.phase = .run ∧ t.remaining = s.remaining.drop 2

/-- 43_stream_driver.md R139, 70_reset_and_hazards.md R181: while a line is outstanding `in_ready` is 0 and no chunk is read;
the block waits, for ever if need be, until the consumer takes the line, whole (handshake: log 8); a reset drops it, and that
it does so even in the same moment as a willing consumer is the model's choice (log 9). -/
def Obligations.OutstandingLineHoldsTheNextChunkBack : Prop :=
  ∀ (s : State) (text : List Byte), s.phase = .run → s.outstanding = some text →
    s.inReady = false ∧
    (s.resetIn = none → s.outReady = false → ∀ n, Sys2Proof.core.run n s = .next s) ∧
    (s.resetIn = none → s.outReady = true → ∃ t, step s = .next t ∧ t.inReady = true ∧
      t.output = s.output ++ text ++ s.lineTerminator ∧ t.outText = s.outText ∧ MoveFrame s t) ∧
    (∀ src, s.resetIn = some src → ∃ t, step s = .next t ∧ t.outstanding = none ∧ t.output = s.output)

/-- 43_stream_driver.md R132: with `in_valid = 0` no transaction happens: nothing is read or written. That there is a
step at all (log 3) and that the strobes are low after it (log 5) is the model's. -/
def Obligations.NothingOfferedNothingAccepted : Prop :=
  ∀ s : State, s.inReady = true → s.inValid = false → s.resetIn = none →
    ∃ t, step s = .next t ∧ MoveFrame s t ∧ t.output = s.output ∧ t.inReady = true ∧ t.outValid = false ∧
      t.decValid = false ∧ t.faultValid = false

/-- 43_stream_driver.md R132, 92_eei_decisions.md D24: with `in_valid = 0` the other inputs have no value, and no step depends on
what stands behind them; with `in_valid = 1` they are the `End` or the two bytes of what the reader delivers next. -/
def Obligations.InputPortsAreDontCareUnlessOffered : Prop :=
  (∀ s : State, s.inValid = false → s.inEnd = none ∧ s.inByte0 = none ∧ s.inByte1 = none) ∧
  (∀ (s t : State) (src : Source) (k : Nat), s.inValid = false → s.resetIn = none → step s = .next t →
    step { s with source := src, nextChunk := k } = .next { t with source := src, nextChunk := k }) ∧
  (∀ s : State, s.inValid = true →
    (s.streamNext = .endOfStream → s.inEnd = some true ∧ s.inByte0 = none ∧ s.inByte1 = none) ∧
    (∀ c, s.streamNext = .pair c → s.inEnd = some false ∧ s.inByte0 = some c.byte0 ∧ s.inByte1 = some c.byte1))

/-- 60_exceptions.md R151: every chunk whose `byte0` lies outside 0x88 to 0x8B is the fatal stop: the cause and the
6-bit opcode are recorded, nothing is printed, and no later chunk is ever read or printed; the ports are those of
R159 and R160, and that the position moves past the fatal chunk is the model's inference (log 17). -/
def Obligations.UnsupportedOpcodeIsTheFatalStop : Prop :=
  ∀ (s : State) (c : Chunk), s.Accepting → s.streamNext = .pair c →
    ¬ (0x88 ≤ c.byte0.toNat ∧ c.byte0.toNat ≤ 0x8B) →
      ∃ t, step s = .next t ∧
        t.phase = .fault ∧ t.inReady = false ∧ t.exitFatal = true ∧
        causeBits t.faultCause = 1#2 ∧ t.faultOpcode.toNat = c.byte0.toNat / 4 ∧ t.faultOpcode.toNat ≠ 34 ∧
        t.faultValid = true ∧ t.slices = some (chunkSlices c) ∧ t.decValid = false ∧ t.outValid = false ∧
        t.output = s.output ∧ t.outstanding = none ∧ t.source = s.source ∧ t.nextChunk = s.nextChunk + 1 ∧
        t.resetIn = none ∧ t.lineTerminator = s.lineTerminator ∧ t.inValid = s.inValid ∧ t.outReady = s.outReady ∧
        ∀ n u, Sys2Proof.core.run n t = .next u →
          u.nextChunk = t.nextChunk ∧ u.output = t.output ∧ u.phase = .fault ∧ u.faultOpcode = t.faultOpcode

/-- 43_stream_driver.md R135: the clean end, for every `End` and for a stream with fewer than 2 bytes left: DONE, exit code 0,
no output, the latch kept, which is its reset value in a legal state. That the strobes are low (log 5) and that the position
stays at `End` (log 17) is the model's inference. -/
def Obligations.EndOfStreamIsTheCleanEnd : Prop :=
  ∀ s : State, s.Accepting → (s.streamNext = .endOfStream ∨ s.remaining.length < Config.chunkBytes) →
    ∃ t, step s = .next t ∧ t.phase = .done ∧ t.exitOk = true ∧ t.exitStatus = some 0 ∧ t.output = s.output ∧ t.outValid = false ∧
      t.decValid = false ∧ t.faultValid = false ∧ t.faultCause = s.faultCause ∧ t.faultOpcode = s.faultOpcode ∧
      t.source = s.source ∧ t.nextChunk = s.nextChunk ∧ t.resetIn = none ∧ t.lineTerminator = s.lineTerminator ∧
      t.outstanding = none ∧ t.inValid = s.inValid ∧ t.outReady = s.outReady ∧
      (s.LatchOk → t.faultCause = .none ∧ t.faultOpcode = 0b000000#6)

/-- 43_stream_driver.md R131, 20_memory.md R37: the three ways to `End`: no byte left, one byte left, a read fault (the form of
the reader and of its fault: log 10). -/
def Obligations.ReaderEndsInThreeWays : Prop :=
  ∀ s : State,
    (s.source.bytes.length ≤ 2 * s.nextChunk → s.streamNext = .endOfStream) ∧
    (s.source.bytes.length = 2 * s.nextChunk + 1 → s.streamNext = .endOfStream) ∧
    (∀ f, s.source.readFaultAt = some f → f ≤ s.nextChunk → s.streamNext = .endOfStream) ∧
    (2 * s.nextChunk + 1 < s.source.bytes.length → (∀ f, s.source.readFaultAt = some f → s.nextChunk < f) →
      ∃ c, s.streamNext = .pair c ∧ s.source.bytes[2 * s.nextChunk]? = some c.byte0 ∧
        s.source.bytes[2 * s.nextChunk + 1]? = some c.byte1)

/-- 43_stream_driver.md R138, 10_state.md R20: in DONE and FAULT nothing is accepted, and neither the phase, the latch, the
streams nor the position change until `reset`. That such a state still has a step is the model's choice (log 3). -/
def Obligations.NothingHappensAfterTheEnd : Prop :=
  ∀ s : State, s.phase ≠ .run → s.resetIn = none →
    s.inReady = false ∧
    ∀ n, ∃ u, Sys2Proof.core.run n s = .next u ∧ u.phase = s.phase ∧ u.faultCause = s.faultCause ∧
      u.faultOpcode = s.faultOpcode ∧ u.source = s.source ∧ u.nextChunk = s.nextChunk ∧ u.output = s.output ∧
      u.resetIn = none ∧ u.outstanding = s.outstanding ∧ u.lineTerminator = s.lineTerminator

/-- 60_exceptions.md R162, 70_reset_and_hazards.md R180, R181: an asserted `reset` starts a new run in any phase; its
form as a request in State is the model's (log 9). -/
def Obligations.ResetStartsANewRunInAnyPhase : Prop :=
  ∀ (s : State) (src : Source), s.resetIn = some src →
    ∃ t, step s = .next t ∧ t.phase = .run ∧ t.faultCause = .none ∧ t.faultOpcode = 0b000000#6 ∧
      t.slices = none ∧ t.decValid = false ∧ t.outValid = false ∧ t.faultValid = false ∧
      t.source = src ∧ t.nextChunk = 0 ∧ t.resetIn = none ∧ t.output = s.output ∧ t.outstanding = none ∧
      t.inReady = true ∧ t.lineTerminator = s.lineTerminator

/-- 10_state.md R20, 60_exceptions.md R162, R170: DONE and FAULT are left only by `reset`, and only to RUN. -/
def Obligations.OnlyResetLeavesTheEnd : Prop :=
  ∀ s t : State, step s = .next t → s.phase ≠ .run → t.phase ≠ s.phase → s.resetIn ≠ none ∧ t.phase = .run

/-- 43_stream_driver.md R132, R133, R135, R136: how a step leaves RUN or stays in it, without a reset: nothing moves the phase
unless a transaction happens. -/
def Obligations.PhaseAfterAStepInRun : Prop :=
  ∀ s t : State, s.phase = .run → s.resetIn = none → step s = .next t →
    (t.phase = .done ↔ s.Accepting ∧ s.streamNext = .endOfStream) ∧
    (t.phase = .fault ↔ s.Accepting ∧ ∃ c, s.streamNext = .pair c ∧ ¬ (0x88 ≤ c.byte0.toNat ∧ c.byte0.toNat ≤ 0x8B))

/-- After 70_reset_and_hazards.md R183, which gives every byte sequence exactly one outcome: no step and no instruction of
the model ends in a fault or a refusal. That a step exists in DONE, in FAULT and with nothing offered (log 3), and that `exec`
with `in_ready = 0` answers a next state (log 16), is the model's choice. -/
def Obligations.EveryStepAnswersANextState : Prop :=
  (∀ s : State, ∃ t, step s = .next t) ∧ (∀ (i : Instr) (s : State), ∃ t, exec i s = .next t)

/-- 60_exceptions.md R152: no input raises InternalInconsistency. -/
def Obligations.InternalInconsistencyIsNeverRaised : Prop :=
  (∀ s t : State, s.faultCause ≠ .internalInconsistency → step s = .next t →
    t.faultCause ≠ .internalInconsistency) ∧
  (∀ s : State, step s ≠ .fault .internalInconsistency)

/-- 60_exceptions.md R163: the latch is written at most once per run, at the transition from RUN to FAULT. -/
def Obligations.FaultLatchIsWrittenOncePerRun : Prop :=
  ∀ s t : State, s.resetIn = none → step s = .next t →
    ((t.faultCause ≠ s.faultCause ∨ t.faultOpcode ≠ s.faultOpcode) → s.phase = .run ∧ t.phase = .fault) ∧
    (s.phase = .fault → t.phase = .fault ∧ t.faultCause = s.faultCause ∧ t.faultOpcode = s.faultOpcode)

/-- 20_memory.md R46, R47, 43_stream_driver.md R134: from a state whose ports agree, the output stream grows by nothing or by
one whole line, the text on the port followed by the terminator, which is the rendering of a Decoded Instruction; a chunk
that raises the fatal condition writes nothing. -/
def Obligations.OutputGrowsByWholeLines : Prop :=
  ∀ s t : State, s.PortsOk → step s = .next t →
    t.output = s.output ∨
    (∃ i : Decoded, t.output = s.output ++ render i ++ s.lineTerminator ∧ t.outText = some (render i) ∧
      s.phase = .run ∧ t.phase = .run)

/-- 10_state.md R18, 20_memory.md R38: without a reset the input is never written, the position never moves backward,
and it moves by one chunk exactly when a chunk is accepted, one that faults included (log 17). -/
def Obligations.ReaderAdvancesOneChunkAtATime : Prop :=
  ∀ s t : State, s.resetIn = none → step s = .next t →
    t.source = s.source ∧
    (t.nextChunk = s.nextChunk ∨ t.nextChunk = s.nextChunk + 1) ∧
    (t.nextChunk = s.nextChunk + 1 ↔ s.Accepting ∧ ∃ c, s.streamNext = .pair c)

/-- 40_bitfield_accessors.md R82: the slicer's ports for every accepted chunk, one that faults included. -/
def Obligations.SlicerPortsShowEveryAcceptedChunk : Prop :=
  ∀ (s t : State) (c : Chunk), s.Accepting → s.streamNext = .pair c → step s = .next t →
    t.slices = some ⟨c.opcode, c.direction, c.width, c.modBits, c.regSel, c.rmSel⟩

/-- 41_decode_dispatch.md R99: the decoded ports: kind is `w`, roles are chosen by `d`, and they are unspecified when
`dec_valid = 0`. -/
def Obligations.DecodedPortsFollowWidthAndDirection : Prop :=
  ∀ (s t : State) (c : Chunk), s.Accepting → s.streamNext = .pair c → step s = .next t →
    (t.decValid = true ↔ c.opcode = 0b100010#6) ∧
    (c.opcode = 0b100010#6 → t.decWires = some (c.width,
      if c.direction then c.regSel else c.rmSel, if c.direction then c.rmSel else c.regSel)) ∧
    (t.decValid = false → t.decWires = none)

/-- 41_decode_dispatch.md R97, 10_state.md R10, 30_encoding.md R61: the result depends on `byte0` and `byte1[5:0]` only,
wherever the chunk stands and whatever came before. -/
def Obligations.SameChunkGivesSameLineAnywhere : Prop :=
  ∀ (s s' : State) (c c' : Chunk),
    s.Accepting → s.streamNext = .pair c → s'.Accepting → s'.streamNext = .pair c' →
    c.byte0 = c'.byte0 → c.byte1.toNat % 64 = c'.byte1.toNat % 64 →
      ∃ t t', step s = .next t ∧ step s' = .next t' ∧ t.phase = t'.phase ∧ t.decoded = t'.decoded ∧
        t.outText = t'.outText ∧ t.faultValid = t'.faultValid ∧ (t.phase = .fault → t.faultOpcode = t'.faultOpcode)

/-- 60_exceptions.md R158, 20_memory.md R38, R44: bytes that are not in the chunk the reader delivers next do not
influence the step. -/
def Obligations.UnreadBytesDoNotMatter : Prop :=
  ∀ (s t : State) (src : Source), s.resetIn = none → ({ s with source := src } : State).streamNext = s.streamNext →
    step s = .next t → step { s with source := src } = .next { t with source := src }

/-- 20_memory.md R37: a lone byte after whole chunks changes nothing of any step, whatever its value; and when a lone byte
is all that remains, the run ends in DONE with no output; that the position stays there is the model's inference (log 17). -/
def Obligations.LoneLastByteIsNeverInspected : Prop :=
  (∀ s : State, s.Accepting → s.remaining.length = 1 →
    ∃ t, step s = .next t ∧ t.phase = .done ∧ t.output = s.output ∧ t.nextChunk = s.nextChunk) ∧
  ∀ (s t : State) (b : Byte), s.resetIn = none → s.source.bytes.length % 2 = 0 → step s = .next t →
    step { s with source := ⟨s.source.bytes ++ [b], s.source.readFaultAt⟩ } =
      .next { t with source := ⟨s.source.bytes ++ [b], s.source.readFaultAt⟩ }

/-- 43_stream_driver.md R131, 60_exceptions.md R155, U10: a read fault after `f` chunks is the end of the stream that
holds just those chunks (the form of the fault: log 10). -/
def Obligations.ReadFaultIsTheEndOfTheDeliveredPrefix : Prop :=
  ∀ (s t : State) (f : Nat), s.resetIn = none → s.source.readFaultAt = some f → step s = .next t →
    step { s with source := ⟨s.source.bytes.take (2 * f), none⟩ } =
      .next { t with source := ⟨s.source.bytes.take (2 * f), none⟩ }

/-- 43_stream_driver.md R132, R137: `in_ready` and the level status outputs, and the codes of 10_state.md R20 and
60_exceptions.md R150. -/
def Obligations.StatusOutputsFollowThePhase : Prop :=
  (∀ s : State, (s.inReady = true ↔ phaseBits s.phase = 0b00#2 ∧ s.outstanding = none) ∧
    (s.exitOk = true ↔ phaseBits s.phase = 0b01#2) ∧
    (s.exitFatal = true ↔ phaseBits s.phase = 0b10#2) ∧ phaseBits s.phase ≠ 0b11#2 ∧ causeBits s.faultCause ≠ 3#2) ∧
  (∀ p q : Phase, phaseBits p = phaseBits q → p = q) ∧ (∀ a b : FaultCause, causeBits a = causeBits b → a = b) ∧
  causeBits .none = 0#2 ∧ causeBits .unsupportedOpcode = 1#2 ∧ causeBits .internalInconsistency = 2#2

/-- 43_stream_driver.md R141: DONE is exit code 0, FAULT is the open EXIT_CODE_FATAL, whatever non-zero value it has. -/
def Obligations.ExitStatusOfARun : Prop :=
  ∀ s : State, (s.phase = .run → s.exitStatus = none) ∧ (s.phase = .done → s.exitStatus = some 0) ∧
    (s.phase = .fault → ∃ code, s.exitStatus = some code ∧ code ≠ 0)

/-- LINE_TERMINATOR is a parameter (43_stream_driver.md R134; its place in State is the model's choice, log 6), and the
readiness of the reader and of the consumer are inputs (log 8): no step changes them. -/
def Obligations.NoStepChangesParametersOrInputs : Prop :=
  ∀ s t : State, step s = .next t →
    t.lineTerminator = s.lineTerminator ∧ t.inValid = s.inValid ∧ t.outReady = s.outReady

/-- The model's loader (log 11) of a table word (log 12): the very next step runs the row's instruction on the loaded state. -/
def Obligations.FetchWordRunsTheTableRow : Prop :=
  ∀ (s : State) (nbits w : Nat) (i : Instr), decodeTableWord nbits w = some i →
    ∃ t, step (s.withFetchWord nbits w) = .next t ∧ exec i (s.withFetchWord nbits w).advance = .next t ∧
      t.decoded = some (instrDecoded i) ∧ EmitsLine s t (render (instrDecoded i))

/-! ### Reset and invariants -/

/-- 10_state.md R26, 70_reset_and_hazards.md R180: the state after reset; data ports are unspecified (absent). -/
def Obligations.ResetStateHasTheSpecValues : Prop :=
  phaseBits State.reset.phase = 0b00#2 ∧ causeBits State.reset.faultCause = 0#2 ∧
  State.reset.faultOpcode = 0b000000#6 ∧ State.reset.inReady = true ∧ State.reset.outValid = false ∧
  State.reset.faultValid = false ∧ State.reset.decValid = false ∧ State.reset.exitOk = false ∧
  State.reset.exitFatal = false ∧ State.reset.slices = none ∧ State.reset.decWires = none ∧
  State.reset.outTextWires = none ∧ State.reset.outstanding = none ∧ State.reset.nextChunk = 0

/-- The state after reset is legal. -/
def Obligations.ResetStateIsLegal : Prop := State.reset.Legal

/-- 10_state.md R21, 60_exceptions.md R151, R160, 43_stream_driver.md R133, 30_encoding.md R57: every step from a legal
state, a reset included (log 9), gives a legal state; that absent ports and low strobes are legal rests on logs 4 and 5. -/
def Obligations.EveryStepKeepsTheStateLegal : Prop :=
  ∀ s t : State, s.Legal → step s = .next t → t.Legal

/-- After reset nothing has been read or written (the empty streams: log 11), which is what the reference semantics gives for no chunk. -/
def Obligations.ResetStateFollowsReference : Prop := State.reset.OutputFollowsReference []

/-- 43_stream_driver.md R140, 60_exceptions.md R158: at every moment the output written in this run, with the outstanding
line, and the status are those of the reference semantics for the chunks read so far; a reset starts this anew after what
stands in the output, and an outstanding line is lost (70_reset_and_hazards.md R181), which in the same moment as a willing
consumer is the model's choice (log 9). -/
def Obligations.EveryStepFollowsTheReference : Prop :=
  ∀ (before : List Byte) (s t : State), s.OutputFollowsReference before → step s = .next t →
    (s.resetIn = none → t.OutputFollowsReference before) ∧
    (s.resetIn ≠ none → t.OutputFollowsReference s.output)

/-- 43_stream_driver.md R140: a whole run of the machine is the reference semantics of the bytes the reader can deliver,
from any state in which transactions happen and the consumer takes its lines (R187, log 8), for every line terminator. Steps past the
end, which R138 says do not exist, are the model's choice (log 3). -/
def Obligations.WholeRunIsTheReferenceRun : Prop :=
  ∀ (s : State) (n : Nat), s.Accepting → s.outReady = true → s.remaining.length / 2 + 1 ≤ n →
    ∃ t, Sys2Proof.core.run n s = .next t ∧
      t.output = s.output ++ (referenceRun s.lineTerminator s.remaining).output ∧
      (∀ op, (referenceRun s.lineTerminator s.remaining).status = .fault op →
        t.phase = .fault ∧ t.faultCause = .unsupportedOpcode ∧ t.faultOpcode = op) ∧
      ((referenceRun s.lineTerminator s.remaining).status = .done →
        t.phase = .done ∧ t.faultCause = s.faultCause ∧ t.faultOpcode = s.faultOpcode)

/-- 70_reset_and_hazards.md R187: the run ends within one transaction more than its chunks: DONE with one line per chunk
if every chunk has the supported opcode, else FAULT at the first that has not, with one line per chunk before it, provided
the reader and the consumer complete their transactions (log 8). Steps past the end, which R138 says do not exist, are the
model's choice (log 3). -/
def Obligations.RunEndsWithOneLinePerDecodedChunk : Prop :=
  ∀ (s : State) (n : Nat), s.Accepting → s.outReady = true → s.remaining.length / 2 + 1 ≤ n →
    ∃ t, Sys2Proof.core.run n s = .next t ∧ t.phase ≠ .run ∧
      ((∀ k, k < s.remaining.length / 2 → chunkSupported s.remaining k) →
        t.phase = .done ∧ ∃ lines : List Decoded, lines.length = s.remaining.length / 2 ∧
          t.output = s.output ++ lines.flatMap (lineBytes s.lineTerminator)) ∧
      (∀ k, k < s.remaining.length / 2 → ¬ chunkSupported s.remaining k →
        (∀ j, j < k → chunkSupported s.remaining j) →
          t.phase = .fault ∧ t.faultOpcode.toNat = (s.remaining.getD (2 * k) 0#8).toNat / 4 ∧
          ∃ lines : List Decoded, lines.length = k ∧
            t.output = s.output ++ lines.flatMap (lineBytes s.lineTerminator))

/-- 43_stream_driver.md R140: the reference run of whole chunks followed by more bytes extends the run of the chunks,
and stays it if that run was fatal; a lone last byte changes nothing. -/
def Obligations.ReferenceRunOfAPrefix : Prop :=
  ∀ (terminator xs ys : List Byte), xs.length % 2 = 0 →
    ((referenceRun terminator xs).status = .done →
      (referenceRun terminator (xs ++ ys)).output =
        (referenceRun terminator xs).output ++ (referenceRun terminator ys).output ∧
      (referenceRun terminator (xs ++ ys)).status = (referenceRun terminator ys).status) ∧
    (∀ op, (referenceRun terminator xs).status = .fault op →
      referenceRun terminator (xs ++ ys) = referenceRun terminator xs) ∧
    (∀ b, referenceRun terminator (xs ++ [b]) = referenceRun terminator xs)
end

