-- ==== Sys2Proof/Laws/State.lean ====
section
/-! SUPPORT. One lemma per field per update of State, each true by rfl, so that no later proof unfolds an update. -/

namespace Sys2Proof.Machine

variable (s : State)

/-! ### The reader's position moves and nothing else: `State.advance` -/

@[simp] theorem State.advance_phase : s.advance.phase = s.phase := rfl
@[simp] theorem State.advance_faultCause : s.advance.faultCause = s.faultCause := rfl
@[simp] theorem State.advance_faultOpcode : s.advance.faultOpcode = s.faultOpcode := rfl
@[simp] theorem State.advance_slices : s.advance.slices = s.slices := rfl
@[simp] theorem State.advance_decoded : s.advance.decoded = s.decoded := rfl
@[simp] theorem State.advance_outText : s.advance.outText = s.outText := rfl
@[simp] theorem State.advance_faultValid : s.advance.faultValid = s.faultValid := rfl
@[simp] theorem State.advance_outstanding : s.advance.outstanding = s.outstanding := rfl
@[simp] theorem State.advance_inValid : s.advance.inValid = s.inValid := rfl
@[simp] theorem State.advance_outReady : s.advance.outReady = s.outReady := rfl
@[simp] theorem State.advance_source : s.advance.source = s.source := rfl
@[simp] theorem State.advance_nextChunk : s.advance.nextChunk = s.nextChunk + 1 := rfl
@[simp] theorem State.advance_resetIn : s.advance.resetIn = s.resetIn := rfl
@[simp] theorem State.advance_output : s.advance.output = s.output := rfl
@[simp] theorem State.advance_lineTerminator : s.advance.lineTerminator = s.lineTerminator := rfl

/-! ### A step without a chunk: `State.noChunk` -/

@[simp] theorem State.noChunk_phase : s.noChunk.phase = s.phase := rfl
@[simp] theorem State.noChunk_faultCause : s.noChunk.faultCause = s.faultCause := rfl
@[simp] theorem State.noChunk_faultOpcode : s.noChunk.faultOpcode = s.faultOpcode := rfl
@[simp] theorem State.noChunk_slices : s.noChunk.slices = none := rfl
@[simp] theorem State.noChunk_decoded : s.noChunk.decoded = none := rfl
@[simp] theorem State.noChunk_outText : s.noChunk.outText = none := rfl
@[simp] theorem State.noChunk_faultValid : s.noChunk.faultValid = false := rfl
@[simp] theorem State.noChunk_outstanding : s.noChunk.outstanding = s.outstanding := rfl
@[simp] theorem State.noChunk_inValid : s.noChunk.inValid = s.inValid := rfl
@[simp] theorem State.noChunk_outReady : s.noChunk.outReady = s.outReady := rfl
@[simp] theorem State.noChunk_source : s.noChunk.source = s.source := rfl
@[simp] theorem State.noChunk_nextChunk : s.noChunk.nextChunk = s.nextChunk := rfl
@[simp] theorem State.noChunk_resetIn : s.noChunk.resetIn = s.resetIn := rfl
@[simp] theorem State.noChunk_output : s.noChunk.output = s.output := rfl
@[simp] theorem State.noChunk_lineTerminator : s.noChunk.lineTerminator = s.lineTerminator := rfl

/-! ### The clean end: `State.cleanEnd` -/

@[simp] theorem State.cleanEnd_phase : s.cleanEnd.phase = .done := rfl
@[simp] theorem State.cleanEnd_faultCause : s.cleanEnd.faultCause = s.faultCause := rfl
@[simp] theorem State.cleanEnd_faultOpcode : s.cleanEnd.faultOpcode = s.faultOpcode := rfl
@[simp] theorem State.cleanEnd_slices : s.cleanEnd.slices = none := rfl
@[simp] theorem State.cleanEnd_decoded : s.cleanEnd.decoded = none := rfl
@[simp] theorem State.cleanEnd_outText : s.cleanEnd.outText = none := rfl
@[simp] theorem State.cleanEnd_faultValid : s.cleanEnd.faultValid = false := rfl
@[simp] theorem State.cleanEnd_outstanding : s.cleanEnd.outstanding = s.outstanding := rfl
@[simp] theorem State.cleanEnd_inValid : s.cleanEnd.inValid = s.inValid := rfl
@[simp] theorem State.cleanEnd_outReady : s.cleanEnd.outReady = s.outReady := rfl
@[simp] theorem State.cleanEnd_source : s.cleanEnd.source = s.source := rfl
@[simp] theorem State.cleanEnd_nextChunk : s.cleanEnd.nextChunk = s.nextChunk := rfl
@[simp] theorem State.cleanEnd_resetIn : s.cleanEnd.resetIn = s.resetIn := rfl
@[simp] theorem State.cleanEnd_output : s.cleanEnd.output = s.output := rfl
@[simp] theorem State.cleanEnd_lineTerminator : s.cleanEnd.lineTerminator = s.lineTerminator := rfl

/-! ### The fatal stop: `State.fatalStop` -/

@[simp] theorem State.fatalStop_phase (cause : FaultCause) (op : Opcode) (c : Chunk) : (s.fatalStop cause op c).phase = .fault := rfl
@[simp] theorem State.fatalStop_faultCause (cause : FaultCause) (op : Opcode) (c : Chunk) : (s.fatalStop cause op c).faultCause = cause := rfl
@[simp] theorem State.fatalStop_faultOpcode (cause : FaultCause) (op : Opcode) (c : Chunk) : (s.fatalStop cause op c).faultOpcode = op := rfl
@[simp] theorem State.fatalStop_slices (cause : FaultCause) (op : Opcode) (c : Chunk) : (s.fatalStop cause op c).slices = some (chunkSlices c) := rfl
@[simp] theorem State.fatalStop_decoded (cause : FaultCause) (op : Opcode) (c : Chunk) : (s.fatalStop cause op c).decoded = none := rfl
@[simp] theorem State.fatalStop_outText (cause : FaultCause) (op : Opcode) (c : Chunk) : (s.fatalStop cause op c).outText = none := rfl
@[simp] theorem State.fatalStop_faultValid (cause : FaultCause) (op : Opcode) (c : Chunk) : (s.fatalStop cause op c).faultValid = true := rfl
@[simp] theorem State.fatalStop_outstanding (cause : FaultCause) (op : Opcode) (c : Chunk) : (s.fatalStop cause op c).outstanding = s.outstanding := rfl
@[simp] theorem State.fatalStop_inValid (cause : FaultCause) (op : Opcode) (c : Chunk) : (s.fatalStop cause op c).inValid = s.inValid := rfl
@[simp] theorem State.fatalStop_outReady (cause : FaultCause) (op : Opcode) (c : Chunk) : (s.fatalStop cause op c).outReady = s.outReady := rfl
@[simp] theorem State.fatalStop_source (cause : FaultCause) (op : Opcode) (c : Chunk) : (s.fatalStop cause op c).source = s.source := rfl
@[simp] theorem State.fatalStop_nextChunk (cause : FaultCause) (op : Opcode) (c : Chunk) : (s.fatalStop cause op c).nextChunk = s.nextChunk := rfl
@[simp] theorem State.fatalStop_resetIn (cause : FaultCause) (op : Opcode) (c : Chunk) : (s.fatalStop cause op c).resetIn = s.resetIn := rfl
@[simp] theorem State.fatalStop_output (cause : FaultCause) (op : Opcode) (c : Chunk) : (s.fatalStop cause op c).output = s.output := rfl
@[simp] theorem State.fatalStop_lineTerminator (cause : FaultCause) (op : Opcode) (c : Chunk) : (s.fatalStop cause op c).lineTerminator = s.lineTerminator := rfl

/-! ### Reset: `State.applyReset` -/

@[simp] theorem State.applyReset_phase (src : Source) : (s.applyReset src).phase = .run := rfl
@[simp] theorem State.applyReset_faultCause (src : Source) : (s.applyReset src).faultCause = .none := rfl
@[simp] theorem State.applyReset_faultOpcode (src : Source) : (s.applyReset src).faultOpcode = 0b000000#6 := rfl
@[simp] theorem State.applyReset_slices (src : Source) : (s.applyReset src).slices = none := rfl
@[simp] theorem State.applyReset_decoded (src : Source) : (s.applyReset src).decoded = none := rfl
@[simp] theorem State.applyReset_outText (src : Source) : (s.applyReset src).outText = none := rfl
@[simp] theorem State.applyReset_faultValid (src : Source) : (s.applyReset src).faultValid = false := rfl
@[simp] theorem State.applyReset_outstanding (src : Source) : (s.applyReset src).outstanding = none := rfl
@[simp] theorem State.applyReset_inValid (src : Source) : (s.applyReset src).inValid = s.inValid := rfl
@[simp] theorem State.applyReset_outReady (src : Source) : (s.applyReset src).outReady = s.outReady := rfl
@[simp] theorem State.applyReset_source (src : Source) : (s.applyReset src).source = src := rfl
@[simp] theorem State.applyReset_nextChunk (src : Source) : (s.applyReset src).nextChunk = 0 := rfl
@[simp] theorem State.applyReset_resetIn (src : Source) : (s.applyReset src).resetIn = none := rfl
@[simp] theorem State.applyReset_output (src : Source) : (s.applyReset src).output = s.output := rfl
@[simp] theorem State.applyReset_lineTerminator (src : Source) : (s.applyReset src).lineTerminator = s.lineTerminator := rfl

/-! ### A presented line: `State.presentMove` -/

@[simp] theorem State.presentMove_phase (sl : Slices) (i : Decoded) : (s.presentMove sl i).phase = s.phase := rfl
@[simp] theorem State.presentMove_faultCause (sl : Slices) (i : Decoded) : (s.presentMove sl i).faultCause = s.faultCause := rfl
@[simp] theorem State.presentMove_faultOpcode (sl : Slices) (i : Decoded) : (s.presentMove sl i).faultOpcode = s.faultOpcode := rfl
@[simp] theorem State.presentMove_slices (sl : Slices) (i : Decoded) : (s.presentMove sl i).slices = some sl := rfl
@[simp] theorem State.presentMove_decoded (sl : Slices) (i : Decoded) : (s.presentMove sl i).decoded = some i := rfl
@[simp] theorem State.presentMove_outText (sl : Slices) (i : Decoded) : (s.presentMove sl i).outText = some (render i) := rfl
@[simp] theorem State.presentMove_faultValid (sl : Slices) (i : Decoded) : (s.presentMove sl i).faultValid = false := rfl
@[simp] theorem State.presentMove_outstanding (sl : Slices) (i : Decoded) : (s.presentMove sl i).outstanding = some (render i) := rfl
@[simp] theorem State.presentMove_inValid (sl : Slices) (i : Decoded) : (s.presentMove sl i).inValid = s.inValid := rfl
@[simp] theorem State.presentMove_outReady (sl : Slices) (i : Decoded) : (s.presentMove sl i).outReady = s.outReady := rfl
@[simp] theorem State.presentMove_source (sl : Slices) (i : Decoded) : (s.presentMove sl i).source = s.source := rfl
@[simp] theorem State.presentMove_nextChunk (sl : Slices) (i : Decoded) : (s.presentMove sl i).nextChunk = s.nextChunk := rfl
@[simp] theorem State.presentMove_resetIn (sl : Slices) (i : Decoded) : (s.presentMove sl i).resetIn = s.resetIn := rfl
@[simp] theorem State.presentMove_output (sl : Slices) (i : Decoded) : (s.presentMove sl i).output = s.output := rfl
@[simp] theorem State.presentMove_lineTerminator (sl : Slices) (i : Decoded) : (s.presentMove sl i).lineTerminator = s.lineTerminator := rfl

/-! ### The output side of a step: `State.consume` -/

@[simp] theorem State.consume_phase : s.consume.phase = s.phase := rfl
@[simp] theorem State.consume_faultCause : s.consume.faultCause = s.faultCause := rfl
@[simp] theorem State.consume_faultOpcode : s.consume.faultOpcode = s.faultOpcode := rfl
@[simp] theorem State.consume_slices : s.consume.slices = s.slices := rfl
@[simp] theorem State.consume_decoded : s.consume.decoded = s.decoded := rfl
@[simp] theorem State.consume_outText : s.consume.outText = s.outText := rfl
@[simp] theorem State.consume_faultValid : s.consume.faultValid = s.faultValid := rfl
@[simp] theorem State.consume_outstanding : s.consume.outstanding = if s.outReady then none else s.outstanding := rfl
@[simp] theorem State.consume_inValid : s.consume.inValid = s.inValid := rfl
@[simp] theorem State.consume_outReady : s.consume.outReady = s.outReady := rfl
@[simp] theorem State.consume_source : s.consume.source = s.source := rfl
@[simp] theorem State.consume_nextChunk : s.consume.nextChunk = s.nextChunk := rfl
@[simp] theorem State.consume_resetIn : s.consume.resetIn = s.resetIn := rfl
@[simp] theorem State.consume_output : s.consume.output = s.output ++ (if s.outReady then s.pendingLine else []) := rfl
@[simp] theorem State.consume_lineTerminator : s.consume.lineTerminator = s.lineTerminator := rfl

/-! ### An accepted move: `State.emitMove` -/

@[simp] theorem State.emitMove_phase (sl : Slices) (i : Decoded) : (s.emitMove sl i).phase = s.phase := rfl
@[simp] theorem State.emitMove_faultCause (sl : Slices) (i : Decoded) : (s.emitMove sl i).faultCause = s.faultCause := rfl
@[simp] theorem State.emitMove_faultOpcode (sl : Slices) (i : Decoded) : (s.emitMove sl i).faultOpcode = s.faultOpcode := rfl
@[simp] theorem State.emitMove_slices (sl : Slices) (i : Decoded) : (s.emitMove sl i).slices = some sl := rfl
@[simp] theorem State.emitMove_decoded (sl : Slices) (i : Decoded) : (s.emitMove sl i).decoded = some i := rfl
@[simp] theorem State.emitMove_outText (sl : Slices) (i : Decoded) : (s.emitMove sl i).outText = some (render i) := rfl
@[simp] theorem State.emitMove_faultValid (sl : Slices) (i : Decoded) : (s.emitMove sl i).faultValid = false := rfl
@[simp] theorem State.emitMove_outstanding (sl : Slices) (i : Decoded) : (s.emitMove sl i).outstanding = if s.outReady then none else some (render i) := rfl
@[simp] theorem State.emitMove_inValid (sl : Slices) (i : Decoded) : (s.emitMove sl i).inValid = s.inValid := rfl
@[simp] theorem State.emitMove_outReady (sl : Slices) (i : Decoded) : (s.emitMove sl i).outReady = s.outReady := rfl
@[simp] theorem State.emitMove_source (sl : Slices) (i : Decoded) : (s.emitMove sl i).source = s.source := rfl
@[simp] theorem State.emitMove_nextChunk (sl : Slices) (i : Decoded) : (s.emitMove sl i).nextChunk = s.nextChunk := rfl
@[simp] theorem State.emitMove_resetIn (sl : Slices) (i : Decoded) : (s.emitMove sl i).resetIn = s.resetIn := rfl
@[simp] theorem State.emitMove_output (sl : Slices) (i : Decoded) : (s.emitMove sl i).output = s.output ++ (if s.outReady then lineBytes s.lineTerminator i else []) := rfl
@[simp] theorem State.emitMove_lineTerminator (sl : Slices) (i : Decoded) : (s.emitMove sl i).lineTerminator = s.lineTerminator := rfl

/-! ### The loader: `State.withNextChunk` -/

@[simp] theorem State.withNextChunk_phase (c : Chunk) : (s.withNextChunk c).phase = .run := rfl
@[simp] theorem State.withNextChunk_faultCause (c : Chunk) : (s.withNextChunk c).faultCause = .none := rfl
@[simp] theorem State.withNextChunk_faultOpcode (c : Chunk) : (s.withNextChunk c).faultOpcode = 0b000000#6 := rfl
@[simp] theorem State.withNextChunk_slices (c : Chunk) : (s.withNextChunk c).slices = s.slices := rfl
@[simp] theorem State.withNextChunk_decoded (c : Chunk) : (s.withNextChunk c).decoded = s.decoded := rfl
@[simp] theorem State.withNextChunk_outText (c : Chunk) : (s.withNextChunk c).outText = s.outText := rfl
@[simp] theorem State.withNextChunk_faultValid (c : Chunk) : (s.withNextChunk c).faultValid = s.faultValid := rfl
@[simp] theorem State.withNextChunk_outstanding (c : Chunk) : (s.withNextChunk c).outstanding = none := rfl
@[simp] theorem State.withNextChunk_inValid (c : Chunk) : (s.withNextChunk c).inValid = true := rfl
@[simp] theorem State.withNextChunk_outReady (c : Chunk) : (s.withNextChunk c).outReady = s.outReady := rfl
@[simp] theorem State.withNextChunk_source (c : Chunk) : (s.withNextChunk c).source = s.source.putChunk s.nextChunk c := rfl
@[simp] theorem State.withNextChunk_nextChunk (c : Chunk) : (s.withNextChunk c).nextChunk = s.nextChunk := rfl
@[simp] theorem State.withNextChunk_resetIn (c : Chunk) : (s.withNextChunk c).resetIn = none := rfl
@[simp] theorem State.withNextChunk_output (c : Chunk) : (s.withNextChunk c).output = s.output := rfl
@[simp] theorem State.withNextChunk_lineTerminator (c : Chunk) : (s.withNextChunk c).lineTerminator = s.lineTerminator := rfl

end Sys2Proof.Machine
end

