-- ==== Sys2Proof/Laws/Decode.lean ====
section
/-! SUPPORT. What the slicer and the dispatch give, said once: the fields of an assembled byte, the chunk of an
encoded instruction, and the two outcomes of decoding. -/

namespace Sys2Proof

/-! ### Fields of an assembled second byte -/

@[simp] theorem modBits_moveByte1 (b0 : Byte) (m : ModBits) (r b : Selector) :
    (Chunk.mk b0 (moveByte1 m r b)).modBits = m := by
  revert m r b; unfold moveByte1 Chunk.modBits; dsimp only; decide

@[simp] theorem regSel_moveByte1 (b0 : Byte) (m : ModBits) (r b : Selector) :
    (Chunk.mk b0 (moveByte1 m r b)).regSel = r := by
  revert m r b; unfold moveByte1 Chunk.regSel; dsimp only; decide

@[simp] theorem rmSel_moveByte1 (b0 : Byte) (m : ModBits) (r b : Selector) :
    (Chunk.mk b0 (moveByte1 m r b)).rmSel = b := by
  revert m r b; unfold moveByte1 Chunk.rmSel; dsimp only; decide

/-- A second byte is the assembly of its three fields: they cover all bits (30_encoding.md R50). -/
theorem moveByte1_of_fields (c : Chunk) : moveByte1 c.modBits c.regSel c.rmSel = c.byte1 := by
  obtain ⟨b0, b1⟩ := c
  revert b1; unfold moveByte1 Chunk.modBits Chunk.regSel Chunk.rmSel; dsimp only; decide

/-! ### Identities and their codes, the inverse used by the encoder -/

@[simp] theorem Full16.ofSel_of_sel (r : Full16) : Full16.ofSel r.sel = r := by cases r <;> rfl

@[simp] theorem Half8.ofSel_of_sel (r : Half8) : Half8.ofSel r.sel = r := by cases r <;> rfl

@[simp] theorem Mode.ofBits_of_bits (m : Mode) : Mode.ofBits m.bits = m := by cases m <;> rfl

@[simp] theorem Full16.sel_of_ofSel (v : Selector) : (Full16.ofSel v).sel = v := by revert v; decide

@[simp] theorem Half8.sel_of_ofSel (v : Selector) : (Half8.ofSel v).sel = v := by revert v; decide

@[simp] theorem Mode.bits_of_ofBits (v : ModBits) : (Mode.ofBits v).bits = v := by revert v; decide

/-! ### The dispatch -/

/-- A chunk either matches one of the four rows and is that row's encoding, or is rejected with its opcode. -/
theorem decodeChunk_cases (c : Chunk) :
    (∃ i, decodeChunk c = .ok i ∧ encodeChunk i = c) ∨
    (decodeChunk c = .error c.opcode ∧ c.opcode ≠ supportedOpcode) := by
  obtain ⟨b0, b1⟩ := c
  have fields := moveByte1_of_fields ⟨b0, b1⟩
  unfold decodeChunk
  split
  · left; refine ⟨_, rfl, ?_⟩
    simp_all [encodeChunk, Chunk.addressingMode, Chunk.regHalf, Chunk.rmHalf]
  split
  · left; refine ⟨_, rfl, ?_⟩
    simp_all [encodeChunk, Chunk.addressingMode, Chunk.reg, Chunk.rm]
  split
  · left; refine ⟨_, rfl, ?_⟩
    simp_all [encodeChunk, Chunk.addressingMode, Chunk.regHalf, Chunk.rmHalf]
  split
  · left; refine ⟨_, rfl, ?_⟩
    simp_all [encodeChunk, Chunk.addressingMode, Chunk.reg, Chunk.rm]
  · right; refine ⟨rfl, ?_⟩
    clear fields
    simp only [Chunk.opcode, supportedOpcode] at *
    revert b0; decide

/-- What decodes is the row whose encoding the chunk is. -/
theorem encodeChunk_of_decodeChunk {c : Chunk} {i : Instr} (h : decodeChunk c = .ok i) : encodeChunk i = c := by
  obtain ⟨j, hj, hc⟩ | ⟨hc, -⟩ := decodeChunk_cases c
  · rw [hj] at h; cases h; exact hc
  · rw [hc] at h; cases h

/-- What is rejected is rejected with its own, unsupported opcode. -/
theorem opcode_of_decodeChunk_error {c : Chunk} {op : Opcode} (h : decodeChunk c = .error op) :
    op = c.opcode ∧ c.opcode ≠ supportedOpcode := by
  obtain ⟨j, hj, -⟩ | ⟨hc, hne⟩ := decodeChunk_cases c
  · rw [hj] at h; cases h
  · rw [hc] at h; cases h; exact ⟨rfl, hne⟩

namespace Machine

/-- The slicer's ports of an encoded instruction decode to its Decoded Instruction (30_encoding.md R57). -/
theorem slicesDecoded_of_encodeChunk (i : Instr) :
    slicesDecoded (chunkSlices (encodeChunk i)) = some (instrDecoded i) := by
  cases i <;>
    simp [slicesDecoded, chunkSlices, encodeChunk, Chunk.opcode, Chunk.width, Chunk.direction, supportedOpcode,
      roleDst, roleSrc, instrDecoded]

end Machine

/-- The dispatch gives an encoded instruction its row's Decoded Instruction (41_decode_dispatch.md R91 to R96). -/
theorem blockDecode_encodeChunk (i : Instr) : blockDecode (encodeChunk i) = .ok (Machine.instrDecoded i) := by
  cases i <;>
    simp [blockDecode, decodeMov, encodeChunk, Machine.instrDecoded, Chunk.opcode, Chunk.width, Chunk.direction,
      supportedOpcode, Chunk.regHalf, Chunk.rmHalf, Chunk.reg, Chunk.rm]

/-- The dispatch rejects an unsupported opcode with that opcode (41_decode_dispatch.md R90). -/
theorem blockDecode_unsupported {c : Chunk} (h : c.opcode ≠ supportedOpcode) : blockDecode c = .error c.opcode := by
  simp [blockDecode, h]

end Sys2Proof
end

