-- ==== Sys2Proof/Laws/Ops.lean ====
section
/-! SUPPORT. What each shared operation can do, said once: the reader's transaction, an accepted move, a fetch. -/

namespace Sys2Proof.Machine

/-- The reader gives `End` exactly when fewer than two deliverable bytes remain. -/
theorem streamNext_end_iff (s : State) :
    s.streamNext = .endOfStream ↔ s.source.delivered.length ≤ 2 * s.nextChunk + 1 := by
  unfold State.streamNext
  by_cases h : 2 * s.nextChunk + 1 < s.source.delivered.length
  · have h0 : 2 * s.nextChunk < s.source.delivered.length := by omega
    simp [List.getElem?_eq_getElem h0, h]
  · have : s.source.delivered[2 * s.nextChunk + 1]? = none := List.getElem?_eq_none (by omega)
    rw [this]
    split <;> simp_all

/-- The reader gives a chunk exactly when the bytes it can still deliver begin with that chunk's two bytes. -/
theorem streamNext_pair_iff (s : State) (c : Chunk) :
    s.streamNext = .pair c ↔ ∃ rest, s.remaining = c.byte0 :: c.byte1 :: rest := by
  have key : s.streamNext = match s.remaining with
      | b0 :: b1 :: _ => .pair ⟨b0, b1⟩
      | _ => .endOfStream := by
    unfold State.streamNext State.remaining
    have e0 : s.source.delivered[2 * s.nextChunk]? = (s.source.delivered.drop (2 * s.nextChunk))[0]? := by simp
    have e1 : s.source.delivered[2 * s.nextChunk + 1]? = (s.source.delivered.drop (2 * s.nextChunk))[1]? := by simp
    rw [e0, e1]
    rcases s.source.delivered.drop (2 * s.nextChunk) with _ | ⟨b0, _ | ⟨b1, rest⟩⟩ <;> rfl
  rw [key]
  rcases s.remaining with _ | ⟨b0, _ | ⟨b1, rest⟩⟩
  · simp
  · simp
  · obtain ⟨c0, c1⟩ := c
    simp

/-- After a chunk, the bytes that remain are those behind it. -/
theorem remaining_advance (s : State) : s.advance.remaining = s.remaining.drop 2 := by
  simp [State.remaining, Nat.mul_add]

/-- A delivered chunk is consumed whole, and the position stays within the delivered bytes. -/
theorem consumed_advance {s : State} {c : Chunk} (hq : s.PositionOk) (h : s.streamNext = .pair c) :
    s.consumed.length = 2 * s.nextChunk ∧ s.advance.consumed = s.consumed ++ [c.byte0, c.byte1] ∧
      s.advance.PositionOk := by
  obtain ⟨rest, hr⟩ := (streamNext_pair_iff s c).1 h
  have hlen : s.remaining.length = s.source.delivered.length - 2 * s.nextChunk := by simp [State.remaining]
  rw [hr] at hlen
  simp only [List.length_cons] at hlen
  refine ⟨by simp [State.consumed]; exact hq, ?_, ?_⟩
  · unfold State.consumed
    simp only [State.advance_source, State.advance_nextChunk, Nat.mul_add, Nat.mul_one]
    rw [List.take_add]
    congr 1
    show s.remaining.take 2 = _
    rw [hr]; rfl
  · simp [State.PositionOk]; omega

/-- The loader puts the chunk where the reader reads next. -/
theorem streamNext_withNextChunk (s : State) (c : Chunk) : (s.withNextChunk c).streamNext = .pair c := by
  rw [streamNext_pair_iff]
  have hl : (s.source.bytes.take (2 * s.nextChunk) ++
      List.replicate (2 * s.nextChunk - s.source.bytes.length) 0#8).length = 2 * s.nextChunk := by
    simp; omega
  have hd : (s.source.putChunk s.nextChunk c).bytes.drop (2 * s.nextChunk) =
      c.byte0 :: c.byte1 :: s.source.bytes.drop (2 * s.nextChunk + 2) := by
    simp only [Source.putChunk, Chunk.bytes]
    rw [List.append_assoc, List.drop_append_of_le_length (by omega), List.drop_eq_nil_of_le (by omega)]
    simp
  unfold State.remaining Source.delivered
  simp only [State.withNextChunk_source, State.withNextChunk_nextChunk]
  split
  · exact ⟨_, hd⟩
  · rename_i f hf
    have hk : s.nextChunk < f := by
      simp [Source.putChunk, Option.filter_eq_some_iff] at hf
      exact hf.2
    rw [List.drop_take, hd]
    obtain ⟨m, hm⟩ : ∃ m, 2 * f - 2 * s.nextChunk = m + 2 := ⟨2 * f - 2 * s.nextChunk - 2, by omega⟩
    rw [hm]
    exact ⟨_, rfl⟩

/-- With `in_valid = 0` the reader offers nothing (43_stream_driver.md R132). -/
theorem offered_of_idle {s : State} (h : s.inValid = false) : s.offered = none := by simp [State.offered, h]

/-- With `in_valid = 1` it offers the next result of `StreamNext()` (43_stream_driver.md R132). -/
theorem offered_of_valid {s : State} (h : s.inValid = true) : s.offered = some s.streamNext := by
  simp [State.offered, h]

/-- Every move is the shared acceptance of its own chunk's ports and Decoded Instruction. -/
theorem exec_eq_acceptMove (i : Instr) (s : State) :
    exec i s = acceptMove (chunkSlices (encodeChunk i)) (instrDecoded i) s := by
  cases i <;>
    simp [exec, execMovRm8Reg8, execMovRm16Reg16, execMovReg8Rm8, execMovReg16Rm16, moveSlices, chunkSlices,
      encodeChunk, instrDecoded, Chunk.opcode, Chunk.width, Chunk.direction, supportedOpcode]

/-- The two outcomes of an accepted move. -/
theorem acceptMove_cases {sl : Slices} {i : Decoded} {s t : State} (h : acceptMove sl i s = .next t) :
    (s.inReady = true ∧ t = s.emitMove sl i) ∨ (s.inReady = false ∧ t = s) := by
  unfold acceptMove at h
  split at h <;> cases h <;> simp_all

/-- `in_ready` is RUN with nothing outstanding (43_stream_driver.md R132). -/
theorem inReady_iff (s : State) : s.inReady = true ↔ s.phase = .run ∧ s.outstanding = none := by
  simp [State.inReady]

/-- With `in_ready = 1` an instruction emits its line. -/
theorem exec_when_ready (i : Instr) {s : State} (hs : s.inReady = true) :
    exec i s = .next (s.emitMove (chunkSlices (encodeChunk i)) (instrDecoded i)) := by
  simp [exec_eq_acceptMove, acceptMove, hs]

/-- With `in_ready = 0` an instruction is not taken. -/
theorem exec_when_not_ready (i : Instr) {s : State} (hs : s.inReady = false) : exec i s = .next s := by
  simp [exec_eq_acceptMove, acceptMove, hs]

/-- An accepted move emits the line of its text. -/
theorem emitsLine_emitMove (sl : Slices) (i : Decoded) (s : State) : EmitsLine s (s.emitMove sl i) (render i) := by
  constructor <;> intro h <;> simp [h, lineBytes]

/-- The outstanding line is written or stays outstanding: the two together are the same bytes before and after. -/
theorem output_pending_consume (s : State) :
    s.consume.output ++ s.consume.pendingLine = s.output ++ s.pendingLine := by
  unfold State.pendingLine
  cases h : s.outReady <;> simp [h, State.pendingLine]

/-- An accepted move adds its line to what is written or outstanding. -/
theorem output_pending_emitMove (sl : Slices) (i : Decoded) (s : State) :
    (s.emitMove sl i).output ++ (s.emitMove sl i).pendingLine = s.output ++ lineBytes s.lineTerminator i := by
  unfold State.emitMove
  rw [output_pending_consume]
  rfl

@[simp] theorem pendingLine_of_none {s : State} (h : s.outstanding = none) : s.pendingLine = [] := by
  simp [State.pendingLine, h]

end Sys2Proof.Machine
end

