-- ==== Sys2Proof/Laws/Step.lean ====
section
/-! SUPPORT. Everything a step can do, said once, in both directions: which case a step is, and what it answers in
each case. Later proofs cite these and unfold neither `step` nor `fetch`. -/

namespace Sys2Proof.Machine

variable {s t : State}

theorem step_of_reset {src : Source} (h : s.resetIn = some src) : step s = .next (s.applyReset src) := by
  simp [step, fetch, h]

/-- After the end of a run nothing is accepted. -/
theorem step_of_ended (h : s.resetIn = none) (hp : s.phase ≠ .run) : step s = .next s.noChunk := by
  simp [step, fetch, h, State.inReady, hp]

/-- With a line outstanding the step is the output side alone. -/
theorem step_of_outstanding (h : s.resetIn = none) (hp : s.phase = .run) (ho : s.outstanding ≠ none) :
    step s = .next s.consume := by
  have hn : s.inReady = false := by
    cases hs : s.inReady with
    | false => rfl
    | true => exact absurd ((inReady_iff s).1 hs).2 ho
  simp [step, fetch, h, hn, hp, ho]

/-- With nothing outstanding and nothing offered the step accepts no chunk. -/
theorem step_of_idle (h : s.resetIn = none) (ho : s.outstanding = none) (hv : s.inValid = false) :
    step s = .next s.noChunk := by
  simp [step, fetch, h, offered_of_idle hv, ho]

theorem step_of_end (h : s.Accepting) (he : s.streamNext = .endOfStream) : step s = .next s.cleanEnd := by
  obtain ⟨hp, ho, hv, hr⟩ := h
  simp [step, fetch, hr, State.inReady, hp, ho, offered_of_valid hv, he]

theorem step_of_unsupported {c : Chunk} {op : Opcode} (h : s.Accepting) (hc : s.streamNext = .pair c)
    (hd : decodeChunk c = .error op) : step s = .next (s.advance.fatalStop .unsupportedOpcode op c) := by
  obtain ⟨hp, ho, hv, hr⟩ := h
  simp [step, fetch, hr, State.inReady, hp, ho, offered_of_valid hv, hc, hd]

theorem step_of_decoded {c : Chunk} {i : Instr} (h : s.Accepting) (hc : s.streamNext = .pair c)
    (hd : decodeChunk c = .ok i) : step s = exec i s.advance := by
  obtain ⟨hp, ho, hv, hr⟩ := h
  simp [step, fetch, hr, State.inReady, hp, ho, offered_of_valid hv, hc, hd]

/-- A decoded chunk's step, with its ports and its Decoded Instruction. -/
theorem step_of_move {c : Chunk} {i : Instr} (h : s.Accepting) (hc : s.streamNext = .pair c)
    (hd : decodeChunk c = .ok i) : step s = .next (s.advance.emitMove (chunkSlices c) (instrDecoded i)) := by
  rw [step_of_decoded h hc hd, exec_when_ready i ((inReady_iff _).2 ⟨by simpa using h.1, by simpa using h.2.1⟩),
    encodeChunk_of_decodeChunk hd]

/-- The seven cases of a step. -/
theorem step_cases (h : step s = .next t) :
    (∃ src, s.resetIn = some src ∧ t = s.applyReset src) ∨
    (s.resetIn = none ∧ s.phase ≠ .run ∧ t = s.noChunk) ∨
    (s.resetIn = none ∧ s.phase = .run ∧ s.outstanding ≠ none ∧ t = s.consume) ∨
    (s.resetIn = none ∧ s.phase = .run ∧ s.outstanding = none ∧ s.inValid = false ∧ t = s.noChunk) ∨
    (s.Accepting ∧ s.streamNext = .endOfStream ∧ t = s.cleanEnd) ∨
    (∃ c, s.Accepting ∧ s.streamNext = .pair c ∧ decodeChunk c = .error c.opcode ∧ c.opcode ≠ supportedOpcode ∧
      t = s.advance.fatalStop .unsupportedOpcode c.opcode c) ∨
    (∃ c i, s.Accepting ∧ s.streamNext = .pair c ∧ decodeChunk c = .ok i ∧ encodeChunk i = c ∧
      t = s.advance.emitMove (chunkSlices c) (instrDecoded i)) := by
  cases hr : s.resetIn with
  | some src => rw [step_of_reset hr] at h; cases h; exact .inl ⟨src, rfl, rfl⟩
  | none =>
    right
    by_cases hp : s.phase = .run
    case neg => rw [step_of_ended hr hp] at h; cases h; exact .inl ⟨rfl, hp, rfl⟩
    right
    by_cases ho : s.outstanding = none
    case neg => rw [step_of_outstanding hr hp ho] at h; cases h; exact .inl ⟨rfl, hp, ho, rfl⟩
    right
    cases hv : s.inValid with
    | false => rw [step_of_idle hr ho hv] at h; cases h; exact .inl ⟨rfl, hp, ho, rfl, rfl⟩
    | true =>
      right
      have ha : s.Accepting := ⟨hp, ho, hv, hr⟩
      cases hc : s.streamNext with
      | endOfStream =>
        rw [step_of_end ha hc] at h; cases h
        exact .inl ⟨⟨hp, ho, hv, hr⟩, rfl, rfl⟩
      | pair c =>
        right
        obtain ⟨i, hd, he⟩ | ⟨hd, hne⟩ := decodeChunk_cases c
        · rw [step_of_move ha hc hd] at h; cases h
          exact .inr ⟨c, i, ha, rfl, hd, he, rfl⟩
        · rw [step_of_unsupported ha hc hd] at h; cases h
          exact .inl ⟨c, ha, rfl, hd, hne, rfl⟩

/-- One more step at the front of a run. -/
theorem run_succ (n : Nat) (h : step s = .next t) : Sys2Proof.core.run (n + 1) s = Sys2Proof.core.run n t := by
  have h' : Sys2Proof.core.step s = .next t := h
  simp [Host.Core.run, h']

/-- A state whose ports are quiet after the end stays as it is for ever. -/
theorem run_noChunk (h : s.resetIn = none) (hp : s.phase ≠ .run) (n : Nat) :
    Sys2Proof.core.run n s.noChunk = .next s.noChunk := by
  induction n with
  | zero => rfl
  | succ n ih =>
    have hs : step s.noChunk = .next s.noChunk :=
      step_of_ended (s := s.noChunk) (by simpa using h) (by simpa using hp)
    rw [run_succ n hs, ih]

/-- However long one waits after the end, the state is the same but for its ports, which fall quiet. -/
theorem run_of_ended (h : s.resetIn = none) (hp : s.phase ≠ .run) (n : Nat) :
    Sys2Proof.core.run n s = .next s ∨ Sys2Proof.core.run n s = .next s.noChunk := by
  cases n with
  | zero => exact .inl rfl
  | succ n => rw [run_succ n (step_of_ended h hp)]; exact .inr (run_noChunk h hp n)

end Sys2Proof.Machine
end

