-- ==== Sys2Proof/Laws/PerInstr.lean ====
section
/-! SUPPORT. Facts about each instruction as syntax, one lemma per constructor. -/

/-- What every instruction's encoding has: two bytes, a chunk whose opcode is the supported one, and a chunk whose
fields are the instruction's own `mod` (30_encoding.md R50, R58, R59). -/
def Sys2Proof.Laws.EncodedForm.Statement (i : Sys2Proof.Instr) : Prop :=
  (Sys2Proof.encode i).length = Sys2Proof.Config.chunkBytes ∧
  (Sys2Proof.encodeChunk i).opcode = Sys2Proof.supportedOpcode ∧
  (Sys2Proof.encodeChunk i).addressingMode = i.mode

theorem Sys2Proof.Laws.EncodedForm.movRm8Reg8 (m : Sys2Proof.Mode) (reg rm : Sys2Proof.Half8) :
    Sys2Proof.Laws.EncodedForm.Statement (.movRm8Reg8 m reg rm) :=
  ⟨rfl, by simp [Sys2Proof.encodeChunk, Sys2Proof.Chunk.opcode, Sys2Proof.supportedOpcode],
    by simp [Sys2Proof.encodeChunk, Sys2Proof.Chunk.addressingMode, Sys2Proof.Instr.mode]⟩

theorem Sys2Proof.Laws.EncodedForm.movRm16Reg16 (m : Sys2Proof.Mode) (reg rm : Sys2Proof.Full16) :
    Sys2Proof.Laws.EncodedForm.Statement (.movRm16Reg16 m reg rm) :=
  ⟨rfl, by simp [Sys2Proof.encodeChunk, Sys2Proof.Chunk.opcode, Sys2Proof.supportedOpcode],
    by simp [Sys2Proof.encodeChunk, Sys2Proof.Chunk.addressingMode, Sys2Proof.Instr.mode]⟩

theorem Sys2Proof.Laws.EncodedForm.movReg8Rm8 (m : Sys2Proof.Mode) (reg rm : Sys2Proof.Half8) :
    Sys2Proof.Laws.EncodedForm.Statement (.movReg8Rm8 m reg rm) :=
  ⟨rfl, by simp [Sys2Proof.encodeChunk, Sys2Proof.Chunk.opcode, Sys2Proof.supportedOpcode],
    by simp [Sys2Proof.encodeChunk, Sys2Proof.Chunk.addressingMode, Sys2Proof.Instr.mode]⟩

theorem Sys2Proof.Laws.EncodedForm.movReg16Rm16 (m : Sys2Proof.Mode) (reg rm : Sys2Proof.Full16) :
    Sys2Proof.Laws.EncodedForm.Statement (.movReg16Rm16 m reg rm) :=
  ⟨rfl, by simp [Sys2Proof.encodeChunk, Sys2Proof.Chunk.opcode, Sys2Proof.supportedOpcode],
    by simp [Sys2Proof.encodeChunk, Sys2Proof.Chunk.addressingMode, Sys2Proof.Instr.mode]⟩
end

