-- ==== Sys2Proof/Laws/Render.lean ====
section
/-! SUPPORT. The rendered text as bytes, and the reference run one chunk at a time. -/

namespace Sys2Proof.Machine

theorem moveText_bytes (dst src : List Char) :
    (moveText ['m', 'o', 'v'] dst src).map charByte = movBytes dst src := by
  simp [moveText, movBytes]

/-- The bytes of a full-width move's text (42_mnemonic_renderer.md R112, R115). -/
theorem render_movFull (dst src : Full16) : render (.movFull dst src) = movBytes (fullName dst) (fullName src) :=
  moveText_bytes _ _

/-- The bytes of a half-width move's text (R114, R115). -/
theorem render_movHalf (dst src : Half8) : render (.movHalf dst src) = movBytes (halfName dst) (halfName src) :=
  moveText_bytes _ _

@[simp] theorem fullName_length (r : Full16) : (fullName r).length = 2 := by cases r <;> rfl

@[simp] theorem halfName_length (r : Half8) : (halfName r).length = 2 := by cases r <;> rfl

/-- Every text has ten bytes (R113). -/
@[simp] theorem render_length (i : Decoded) : (render i).length = Config.textLength := by
  cases i <;> simp [render_movFull, render_movHalf, movBytes, Config.textLength]

/-- The reference run stops at fewer than two bytes. -/
theorem referenceRun_short {terminator bytes : List Byte} (h : bytes.length < 2) :
    referenceRun terminator bytes = ⟨[], .done⟩ := by
  match bytes, h with
  | [], _ => rfl
  | [_], _ => rfl

/-- The reference run over the encoding of an instruction prints its line first. -/
theorem referenceRun_encode (terminator : List Byte) (i : Instr) (rest : List Byte) :
    referenceRun terminator ((encodeChunk i).byte0 :: (encodeChunk i).byte1 :: rest) =
      ⟨lineBytes terminator (instrDecoded i) ++ (referenceRun terminator rest).output,
        (referenceRun terminator rest).status⟩ := by
  rw [referenceRun, show Chunk.mk (encodeChunk i).byte0 (encodeChunk i).byte1 = encodeChunk i from rfl,
    blockDecode_encodeChunk]

/-- The reference run over an unsupported chunk is fatal at once. -/
theorem referenceRun_unsupported (terminator : List Byte) {c : Chunk} (h : c.opcode ≠ supportedOpcode)
    (rest : List Byte) : referenceRun terminator (c.byte0 :: c.byte1 :: rest) = ⟨[], .fault c.opcode⟩ := by
  rw [referenceRun, show Chunk.mk c.byte0 c.byte1 = c from rfl, blockDecode_unsupported h]

end Sys2Proof.Machine
end

