-- ==== Sys2Proof/Tests/Slice0.lean ====
section
/-! SUPPORT. Small tests with results taken from spec/95_test_vectors.md and the worked examples of the rules, and for
every statement with hypotheses a witness that meets them. -/

open Sys2Proof Sys2Proof.Machine

namespace Sys2Proof.Tests

/-- A state right after reset whose reader delivers the given bytes. -/
def loaded (bytes : List Byte) : State := { State.reset with source := ⟨bytes, none⟩ }

/-- The next state of an outcome. -/
def after : Host.Outcome State Fault Refusal → Option State
  | .next s => some s
  | .fault _ => none
  | .refused _ => none

/-- A state in FAULT, as the chunk `B8 01` leaves it, with its strobe still up. -/
def faulted : State := (loaded [0xB8#8, 0x01#8, 0x89#8, 0xC3#8]).advance.fatalStop .unsupportedOpcode 0b101110#6 ⟨0xB8#8, 0x01#8⟩

/-- A state right after reset with the given stream, whose consumer takes no line. -/
def blocked (bytes : List Byte) : State := { loaded bytes with outReady := false }

/-- The same after one accepted chunk `8B C3`: its line is outstanding, and a further chunk waits. -/
def stalled : State :=
  (blocked [0x8B#8, 0xC3#8, 0x89#8, 0xC3#8]).advance.emitMove (chunkSlices ⟨0x8B#8, 0xC3#8⟩) (.movFull .ax .bx)

/-- A state in DONE, as the end of an empty stream leaves it. -/
def ended : State := State.reset.cleanEnd

/-! ### WellFormed: typing leaves no ill-formed term; the premise `registerDirect` refuses the other three modes -/

theorem test_registerDirect_refuses_memNoDisp : (Instr.movReg16Rm16 .memNoDisp .ax .bx).registerDirect = false := by decide
theorem test_registerDirect_refuses_memDisp8 : (Instr.movRm16Reg16 .memDisp8 .ax .bx).registerDirect = false := by decide
theorem test_registerDirect_refuses_memDisp16 : (Instr.movRm8Reg8 .memDisp16 .dh .ch).registerDirect = false := by decide
theorem test_registerDirect_accepts_mod11 : (Instr.movReg8Rm8 .regDirect .ah .al).registerDirect = true := by decide
theorem test_wf_of_every_instruction (i : Instr) : i.wf = true := by cases i <;> rfl

/-! ### Decoding, words written out from 30_encoding.md R50 and R58 -/

theorem test_decode_88_E0 : decodeTableWord 16 0b1000100011100000 = some (.movRm8Reg8 .regDirect .ah .al) := by decide
theorem test_decode_89_C3 : decodeTableWord 16 0b1000100111000011 = some (.movRm16Reg16 .regDirect .ax .bx) := by decide
theorem test_decode_8A_E0 : decodeTableWord 16 0b1000101011100000 = some (.movReg8Rm8 .regDirect .ah .al) := by decide
theorem test_decode_8B_C3 : decodeTableWord 16 0b1000101111000011 = some (.movReg16Rm16 .regDirect .ax .bx) := by decide
theorem test_decode_rejects_87_FF : decodeTableWord 16 0x87FF = none := by decide
theorem test_decode_rejects_8C_C0 : decodeTableWord 16 0x8CC0 = none := by decide
theorem test_decode_rejects_22_C0_by_name : decode [0x22#8, 0xC0#8] = .error (.unsupportedOpcode 0b001000#6) := by decide
theorem test_decode_rejects_a_lone_byte : decode [0x8B#8] = .error .shortChunk := by decide
theorem test_encode_88_B5 : encode (.movRm8Reg8 .memDisp16 .dh .ch) = [0x88#8, 0xB5#8] := by decide

/-! ### One step of each instruction (95_test_vectors.md S3 to S5, 2.1, R93) -/

theorem test_mov_88_E0_prints_al_ah : (after (step (loaded [0x88#8, 0xE0#8]))).map State.output =
    some ("mov al, ah\n".toList.map charByte) := by decide
theorem test_mov_89_C3_prints_bx_ax : (after (step (loaded [0x89#8, 0xC3#8]))).map State.output =
    some [0x6D#8, 0x6F#8, 0x76#8, 0x20#8, 0x62#8, 0x78#8, 0x2C#8, 0x20#8, 0x61#8, 0x78#8, 0x0A#8] := by decide
theorem test_mov_8A_E0_prints_ah_al : (after (step (loaded [0x8A#8, 0xE0#8]))).map State.output =
    some [0x6D#8, 0x6F#8, 0x76#8, 0x20#8, 0x61#8, 0x68#8, 0x2C#8, 0x20#8, 0x61#8, 0x6C#8, 0x0A#8] := by decide
theorem test_mov_8B_03_ignores_mod : (after (step (loaded [0x8B#8, 0x03#8]))).map State.output =
    some [0x6D#8, 0x6F#8, 0x76#8, 0x20#8, 0x61#8, 0x78#8, 0x2C#8, 0x20#8, 0x62#8, 0x78#8, 0x0A#8] := by decide
theorem test_mov_88_B5_decodes_ch_dh : (after (step (loaded [0x88#8, 0xB5#8]))).map State.decoded =
    some (some (.movHalf .ch .dh)) := by decide
theorem test_mov_8B_7F_wires : (after (step (loaded [0x8B#8, 0x7F#8]))).map State.decWires =
    some (some (true, 7#3, 7#3)) := by decide
theorem test_slices_8A_E0 : (after (step (loaded [0x8A#8, 0xE0#8]))).map State.slices =
    some (some ⟨0b100010#6, true, false, 0b11#2, 4#3, 0#3⟩) := by decide

/-! ### The sequencer (95_test_vectors.md 2.6, P4, P5) and the loader -/

theorem test_pair_B8_01_faults : (after (step (loaded [0xB8#8, 0x01#8]))).map
    (fun t => (t.phase, causeBits t.faultCause, t.faultOpcode, t.output)) =
    some (.fault, 1#2, 0b101110#6, []) := by decide
theorem test_empty_stream_is_done : (after (step State.reset)).map (fun t => (t.phase, t.output)) = some (.done, []) := by decide
theorem test_lone_00_is_done : (after (step (loaded [0x00#8]))).map (fun t => (t.phase, t.exitStatus)) =
    some (.done, some 0) := by decide
theorem test_fault_takes_no_offer : (after (step faulted)).map (fun t => (t.phase, t.nextChunk, t.faultOpcode, t.faultValid)) =
    some (.fault, 1, 0b101110#6, false) := by decide
theorem test_reset_leaves_fault : (after (step { faulted with resetIn := some ⟨[0x8B#8, 0xC3#8], none⟩ })).map
    (fun t => (t.phase, t.faultCause, t.faultOpcode, t.nextChunk)) = some (.run, .none, 0#6, 0) := by decide
theorem test_fetch_word_runs_first_after_reset : (after (step (State.reset.withFetchWord 16 0x8BC3))).map State.decoded =
    some (some (.movFull .ax .bx)) := by decide
theorem test_fetch_word_runs_from_fault : (after (step (faulted.withFetchWord 16 0x89C3))).map State.decoded =
    some (some (.movFull .bx .ax)) := by decide

/-! ### The output consumer (43_stream_driver.md R139, 70_reset_and_hazards.md R181) -/

theorem test_consumer_not_ready_gets_nothing : (after (step (blocked [0x8B#8, 0xC3#8, 0x89#8, 0xC3#8]))).map
    (fun t => (t.output, t.outstanding, t.inReady, t.nextChunk)) =
    some ([], some ("mov ax, bx".toList.map charByte), false, 1) := by decide
theorem test_consumer_takes_the_outstanding_line : (after (step { stalled with outReady := true })).map
    (fun t => (t.output, t.outstanding, t.inReady, t.nextChunk)) =
    some ("mov ax, bx\n".toList.map charByte, none, true, 1) := by decide
theorem test_reset_drops_an_outstanding_line : (after (step { stalled with resetIn := some ⟨[], none⟩ })).map
    (fun t => (t.output, t.outstanding, t.phase, t.nextChunk)) = some ([], none, .run, 0) := by decide

/-! ### Witnesses: a concrete state and operands for the hypotheses of each statement -/

theorem witness_DecodedBytesAreTheirEncoding :
    decode [0x8B#8, 0x03#8, 0x01#8] = .ok (.movReg16Rm16 .memNoDisp .ax .bx, [0x01#8]) := by decide

theorem witness_ExactlyFourFirstBytesDecode :
    decodeChunk ⟨0x88#8, 0xFF#8⟩ = .ok (.movRm8Reg8 .regDirect .bh .bh) ∧
    decodeChunk ⟨0x8B#8, 0x00#8⟩ = .ok (.movReg16Rm16 .memNoDisp .ax .ax) ∧
    ¬ (0x88 ≤ (Chunk.mk 0x87#8 0xFF#8).byte0.toNat ∧ (Chunk.mk 0x87#8 0xFF#8).byte0.toNat ≤ 0x8B) ∧
    ¬ (0x88 ≤ (Chunk.mk 0x8C#8 0xC0#8).byte0.toNat ∧ (Chunk.mk 0x8C#8 0xC0#8).byte0.toNat ≤ 0x8B) := by decide

theorem witness_DispatchBranchesOnWidthThenDirection :
    (Chunk.mk 0x8A#8 0xE0#8).byte0.toNat / 4 = 34 ∧ (Chunk.mk 0x8C#8 0xE0#8).byte0.toNat / 4 ≠ 34 := by decide

theorem witness_AddressingModeOfEachQuarter :
    (0x00#8).toNat / 64 = 0 ∧ (0x3F#8).toNat / 64 = 0 ∧ (0x40#8).toNat / 64 = 1 ∧ (0x7F#8).toNat / 64 = 1 ∧
    (0x80#8).toNat / 64 = 2 ∧ (0xBF#8).toNat / 64 = 2 ∧ (0xC0#8).toNat / 64 = 3 ∧ (0xFF#8).toNat / 64 = 3 := by decide

theorem witness_TextWiresPackByPosition :
    9 < 10 ∧ (textWires (render (.movFull .ax .bx))).extractLsb' 72 8 = 0x78#8 := by decide

theorem witness_RegisterNamesInSelectorOrder :
    fullName .sp = fullName (Full16.ofSel 4#3) ∧ halfName .ah = halfName (Half8.ofSel 4#3) := by decide

theorem witness_TextDeterminesTheInstruction : render (.movHalf .ah .al) = render (instrDecoded (.movReg8Rm8 .regDirect .ah .al)) := by decide

theorem witness_MovRm8Reg8PrintsRmThenReg :
    (loaded [0x88#8, 0xE0#8]).inReady = true ∧ (loaded [0x88#8, 0xE0#8]).outReady = true ∧
    (blocked [0x88#8, 0xE0#8]).inReady = true ∧ (blocked [0x88#8, 0xE0#8]).outReady = false := by decide
theorem witness_MovRm16Reg16PrintsRmThenReg :
    (loaded [0x89#8, 0xC3#8]).inReady = true ∧ (loaded [0x89#8, 0xC3#8]).outReady = true ∧
    (blocked [0x89#8, 0xC3#8]).inReady = true ∧ (blocked [0x89#8, 0xC3#8]).outReady = false := by decide
theorem witness_MovReg8Rm8PrintsRegThenRm :
    (loaded [0x8A#8, 0xE0#8]).inReady = true ∧ (loaded [0x8A#8, 0xE0#8]).outReady = true ∧
    (blocked [0x8A#8, 0xE0#8]).inReady = true ∧ (blocked [0x8A#8, 0xE0#8]).outReady = false := by decide
theorem witness_MovReg16Rm16PrintsRegThenRm :
    (loaded [0x8B#8, 0xC3#8]).inReady = true ∧ (loaded [0x8B#8, 0xC3#8]).outReady = true ∧
    (blocked [0x8B#8, 0xC3#8]).inReady = true ∧ (blocked [0x8B#8, 0xC3#8]).outReady = false := by decide
theorem witness_MoveIsNotTakenWhenNotReady : faulted.inReady = false ∧ ended.inReady = false ∧ stalled.inReady = false := by decide

theorem witness_StepPrintsEachRowForEverySecondByte :
    (loaded [0x88#8, 0x00#8]).Accepting ∧
    (loaded [0x88#8, 0x00#8]).streamNext = .pair ⟨0x88#8, 0x00#8⟩ ∧
    (loaded [0x89#8, 0xFF#8]).streamNext = .pair ⟨0x89#8, 0xFF#8⟩ ∧
    (loaded [0x8A#8, 0x3F#8]).streamNext = .pair ⟨0x8A#8, 0x3F#8⟩ ∧
    (loaded [0x8B#8, 0xC0#8]).streamNext = .pair ⟨0x8B#8, 0xC0#8⟩ := by decide

theorem witness_AcceptedChunkEmitsOneLine :
    (loaded [0x8B#8, 0x46#8, 0x02#8]).Accepting ∧
    (loaded [0x8B#8, 0x46#8, 0x02#8]).streamNext = .pair ⟨0x8B#8, 0x46#8⟩ ∧
    (Chunk.mk 0x8B#8 0x46#8).opcode = 0b100010#6 := by decide

theorem witness_StepRunsTheDecodedInstruction :
    (loaded [0x89#8, 0xC3#8, 0x00#8]).Accepting ∧
    decode (loaded [0x89#8, 0xC3#8, 0x00#8]).remaining = .ok (.movRm16Reg16 .regDirect .ax .bx, [0x00#8]) := by decide

theorem witness_OutstandingLineHoldsTheNextChunkBack :
    stalled.phase = .run ∧ stalled.outstanding = some ("mov ax, bx".toList.map charByte) ∧
    stalled.resetIn = none ∧ stalled.outReady = false ∧
    ({ stalled with outReady := true } : State).outReady = true ∧
    ({ stalled with resetIn := some ⟨[], none⟩ } : State).resetIn = some ⟨[], none⟩ := by decide

theorem witness_NothingOfferedNothingAccepted :
    ({ loaded [0x8B#8, 0xC3#8] with inValid := false } : State).inReady = true ∧
    ({ loaded [0x8B#8, 0xC3#8] with inValid := false } : State).inValid = false ∧
    ({ loaded [0x8B#8, 0xC3#8] with inValid := false } : State).resetIn = none := by decide

theorem witness_InputPortsAreDontCareUnlessOffered :
    (∃ t, ({ loaded [0x8B#8, 0xC3#8] with inValid := false } : State).inValid = false ∧
      ({ loaded [0x8B#8, 0xC3#8] with inValid := false } : State).resetIn = none ∧
      step { loaded [0x8B#8, 0xC3#8] with inValid := false } = .next t ∧ t.nextChunk = 0) ∧
    (State.reset.inValid = true ∧ State.reset.streamNext = .endOfStream) ∧
    (loaded [0x8B#8, 0xC3#8]).inValid = true ∧ (loaded [0x8B#8, 0xC3#8]).streamNext = .pair ⟨0x8B#8, 0xC3#8⟩ :=
  ⟨⟨_, by decide, by decide, rfl, by decide⟩, by decide, by decide⟩

/-- The run premise inside the conclusion is met too, by zero steps and by every number of steps from `faulted`. -/
theorem witness_UnsupportedOpcodeIsTheFatalStop :
    (loaded [0x8C#8, 0xC0#8]).Accepting ∧
    (loaded [0x8C#8, 0xC0#8]).streamNext = .pair ⟨0x8C#8, 0xC0#8⟩ ∧
    ¬ (0x88 ≤ (Chunk.mk 0x8C#8 0xC0#8).byte0.toNat ∧ (Chunk.mk 0x8C#8 0xC0#8).byte0.toNat ≤ 0x8B) ∧
    (loaded [0x87#8, 0xFF#8]).streamNext = .pair ⟨0x87#8, 0xFF#8⟩ ∧
    ¬ (0x88 ≤ (Chunk.mk 0x87#8 0xFF#8).byte0.toNat ∧ (Chunk.mk 0x87#8 0xFF#8).byte0.toNat ≤ 0x8B) ∧
    (after (Sys2Proof.core.run 2 faulted)).isSome := by decide

theorem witness_EndOfStreamIsTheCleanEnd :
    State.reset.Accepting ∧ State.reset.streamNext = .endOfStream ∧
    (loaded [0x8B#8]).streamNext = .endOfStream ∧
    (loaded [0x8B#8]).Accepting ∧ (loaded [0x8B#8]).remaining.length < Config.chunkBytes ∧ State.reset.LatchOk := by decide

theorem witness_ReaderEndsInThreeWays :
    State.reset.source.bytes.length ≤ 2 * State.reset.nextChunk ∧
    (loaded [0x8B#8]).source.bytes.length = 2 * (loaded [0x8B#8]).nextChunk + 1 ∧
    ({ State.reset with source := ⟨[0x8B#8, 0xC3#8], some 0⟩ } : State).source.readFaultAt = some 0 ∧
    0 ≤ ({ State.reset with source := ⟨[0x8B#8, 0xC3#8], some 0⟩ } : State).nextChunk ∧
    2 * (loaded [0x8B#8, 0xC3#8]).nextChunk + 1 < (loaded [0x8B#8, 0xC3#8]).source.bytes.length ∧
    (loaded [0x8B#8, 0xC3#8]).source.readFaultAt = none := by decide

theorem witness_NothingHappensAfterTheEnd :
    ended.phase ≠ .run ∧ ended.resetIn = none ∧ faulted.phase ≠ .run ∧ faulted.resetIn = none := by decide

theorem witness_ResetStartsANewRunInAnyPhase :
    ({ faulted with resetIn := some ⟨[0x8B#8, 0xC3#8], none⟩ } : State).resetIn = some ⟨[0x8B#8, 0xC3#8], none⟩ := by decide

theorem witness_OnlyResetLeavesTheEnd :
    ∃ t, step { faulted with resetIn := some ⟨[], none⟩ } = .next t ∧
      ({ faulted with resetIn := some ⟨[], none⟩ } : State).phase ≠ .run ∧
      t.phase ≠ ({ faulted with resetIn := some ⟨[], none⟩ } : State).phase := ⟨_, rfl, by decide, by decide⟩

theorem witness_PhaseAfterAStepInRun :
    (∃ t, (loaded [0x8B#8, 0xC3#8]).phase = .run ∧ (loaded [0x8B#8, 0xC3#8]).resetIn = none ∧
      step (loaded [0x8B#8, 0xC3#8]) = .next t ∧ t.phase = .run) ∧
    (∃ t, step State.reset = .next t ∧ State.reset.Accepting ∧ t.phase = .done) ∧
    (∃ t, step (loaded [0x87#8, 0xFF#8]) = .next t ∧ (loaded [0x87#8, 0xFF#8]).Accepting ∧ t.phase = .fault) ∧
    (∃ t, step stalled = .next t ∧ stalled.phase = .run ∧ stalled.resetIn = none ∧ ¬ stalled.Accepting ∧ t.phase = .run) :=
  ⟨⟨_, by decide, by decide, rfl, by decide⟩, ⟨_, rfl, by decide, by decide⟩, ⟨_, rfl, by decide, by decide⟩,
    ⟨_, rfl, by decide, by decide, by decide, by decide⟩⟩

theorem witness_InternalInconsistencyIsNeverRaised :
    ∃ t, (loaded [0xB8#8, 0x01#8]).faultCause ≠ .internalInconsistency ∧
      step (loaded [0xB8#8, 0x01#8]) = .next t ∧ t.faultCause = .unsupportedOpcode := ⟨_, by decide, rfl, by decide⟩

theorem witness_FaultLatchIsWrittenOncePerRun :
    (∃ t, (loaded [0xB8#8, 0x01#8]).resetIn = none ∧ step (loaded [0xB8#8, 0x01#8]) = .next t ∧
      t.faultCause ≠ (loaded [0xB8#8, 0x01#8]).faultCause) ∧
    (∃ t, faulted.resetIn = none ∧ step faulted = .next t ∧ faulted.phase = .fault) :=
  ⟨⟨_, by decide, rfl, by decide⟩, ⟨_, by decide, rfl, by decide⟩⟩

theorem witness_OutputGrowsByWholeLines :
    (∃ t, (loaded [0x8B#8, 0xC3#8]).PortsOk ∧ step (loaded [0x8B#8, 0xC3#8]) = .next t ∧ t.output ≠ []) ∧
    (∃ t, ({ stalled with outReady := true } : State).PortsOk ∧ step { stalled with outReady := true } = .next t ∧
      t.output ≠ []) ∧
    (∃ t, (loaded [0xB8#8, 0x01#8]).PortsOk ∧ step (loaded [0xB8#8, 0x01#8]) = .next t ∧ t.output = []) :=
  ⟨⟨_, by decide, rfl, by decide⟩, ⟨_, by decide, rfl, by decide⟩, ⟨_, by decide, rfl, by decide⟩⟩

theorem witness_ReaderAdvancesOneChunkAtATime :
    ∃ t, (loaded [0x8B#8, 0xC3#8, 0x00#8]).resetIn = none ∧ step (loaded [0x8B#8, 0xC3#8, 0x00#8]) = .next t ∧
      t.nextChunk = 1 := ⟨_, by decide, rfl, by decide⟩

theorem witness_SlicerPortsShowEveryAcceptedChunk :
    ∃ t, (loaded [0xFF#8, 0xFF#8]).Accepting ∧
      (loaded [0xFF#8, 0xFF#8]).streamNext = .pair ⟨0xFF#8, 0xFF#8⟩ ∧ step (loaded [0xFF#8, 0xFF#8]) = .next t ∧
      t.phase = .fault := ⟨_, by decide, by decide, rfl, by decide⟩

theorem witness_DecodedPortsFollowWidthAndDirection :
    (∃ t, (loaded [0x8A#8, 0xE0#8]).Accepting ∧ (loaded [0x8A#8, 0xE0#8]).streamNext = .pair ⟨0x8A#8, 0xE0#8⟩ ∧
      step (loaded [0x8A#8, 0xE0#8]) = .next t ∧ (Chunk.mk 0x8A#8 0xE0#8).opcode = 0b100010#6 ∧ t.decValid = true) ∧
    (∃ t, (loaded [0x22#8, 0xC0#8]).Accepting ∧ (loaded [0x22#8, 0xC0#8]).streamNext = .pair ⟨0x22#8, 0xC0#8⟩ ∧
      step (loaded [0x22#8, 0xC0#8]) = .next t ∧ t.decValid = false) :=
  ⟨⟨_, by decide, by decide, rfl, by decide, by decide⟩, ⟨_, by decide, by decide, rfl, by decide⟩⟩

/-- The same fields at different places, after different chunks, with different `mod` bits; and the same for a fatal one. -/
theorem witness_SameChunkGivesSameLineAnywhere :
    let s := loaded [0x8B#8, 0xC3#8]
    let s' := (loaded [0x88#8, 0x00#8, 0x8B#8, 0x03#8]).advance
    s.Accepting ∧ s.streamNext = .pair ⟨0x8B#8, 0xC3#8⟩ ∧
    s'.Accepting ∧ s'.streamNext = .pair ⟨0x8B#8, 0x03#8⟩ ∧
    (0xC3#8).toNat % 64 = (0x03#8).toNat % 64 := by decide

theorem witness_UnreadBytesDoNotMatter :
    ∃ t, (loaded [0x8B#8, 0xC3#8]).resetIn = none ∧
      ({ loaded [0x8B#8, 0xC3#8] with source := ⟨[0x8B#8, 0xC3#8, 0x00#8, 0x00#8], none⟩ } : State).streamNext =
        (loaded [0x8B#8, 0xC3#8]).streamNext ∧
      step (loaded [0x8B#8, 0xC3#8]) = .next t ∧ t.phase = .run := ⟨_, by decide, by decide, rfl, by decide⟩

theorem witness_LoneLastByteIsNeverInspected :
    ((loaded [0x00#8]).Accepting ∧ (loaded [0x00#8]).remaining.length = 1) ∧
    ∃ t, (loaded []).resetIn = none ∧ (loaded []).source.bytes.length % 2 = 0 ∧ step (loaded []) = .next t ∧
      t.phase = .done := ⟨by decide, _, by decide, by decide, rfl, by decide⟩

theorem witness_ReadFaultIsTheEndOfTheDeliveredPrefix :
    ∃ t, ({ State.reset with source := ⟨[0x8B#8, 0xC3#8, 0x89#8, 0xC3#8], some 1⟩ } : State).resetIn = none ∧
      ({ State.reset with source := ⟨[0x8B#8, 0xC3#8, 0x89#8, 0xC3#8], some 1⟩ } : State).source.readFaultAt = some 1 ∧
      step { State.reset with source := ⟨[0x8B#8, 0xC3#8, 0x89#8, 0xC3#8], some 1⟩ } = .next t ∧ t.outValid = true :=
  ⟨_, by decide, by decide, rfl, by decide⟩

theorem witness_ExitStatusOfARun : State.reset.phase = .run ∧ ended.phase = .done ∧ faulted.phase = .fault := by decide

theorem witness_NoStepChangesParametersOrInputs :
    ∃ t, step { loaded [0x8B#8, 0xC3#8] with lineTerminator := [0x0D#8, 0x0A#8], outReady := false } = .next t ∧
      t.lineTerminator = [0x0D#8, 0x0A#8] := ⟨_, rfl, by decide⟩

theorem witness_FetchWordRunsTheTableRow :
    decodeTableWord 16 0x8800 = some (.movRm8Reg8 .memNoDisp .al .al) := by decide

theorem witness_EveryStepKeepsTheStateLegal :
    faulted.Legal ∧ stalled.Legal ∧ (loaded [0xB8#8, 0x01#8]).Legal ∧
    ∃ t, step (loaded [0xB8#8, 0x01#8]) = .next t ∧ t.faultOpcode = 0b101110#6 :=
  ⟨by decide, by decide, by decide, _, rfl, by decide⟩

theorem witness_EveryStepFollowsTheReference :
    (loaded [0x8B#8, 0xC3#8]).OutputFollowsReference [] ∧ stalled.OutputFollowsReference [] ∧
    (∃ t, step (loaded [0x8B#8, 0xC3#8]) = .next t ∧ (loaded [0x8B#8, 0xC3#8]).resetIn = none ∧ t.output ≠ []) ∧
    (∃ t, step { loaded [0x8B#8, 0xC3#8] with resetIn := some ⟨[], none⟩ } = .next t ∧
      ({ loaded [0x8B#8, 0xC3#8] with resetIn := some ⟨[], none⟩ } : State).resetIn ≠ none) :=
  ⟨by decide, by decide, ⟨_, rfl, by decide, by decide⟩, ⟨_, rfl, by decide⟩⟩

/-- A run of one chunk that ends DONE, and one that is fatal at its second chunk. -/
theorem witness_WholeRunIsTheReferenceRun :
    let s := loaded [0x8B#8, 0xC3#8]
    let f := loaded [0x8B#8, 0xC3#8, 0xB8#8, 0x01#8]
    s.Accepting ∧ s.outReady = true ∧ s.remaining.length / 2 + 1 ≤ 2 ∧
    (referenceRun s.lineTerminator s.remaining).status = .done ∧
    (referenceRun f.lineTerminator f.remaining).status = .fault 0b101110#6 := by decide

theorem witness_RunEndsWithOneLinePerDecodedChunk :
    let s := loaded [0x8B#8, 0xC3#8]
    let f := loaded [0x8B#8, 0xC3#8, 0xB8#8, 0x01#8]
    s.Accepting ∧ s.outReady = true ∧ s.remaining.length / 2 + 1 ≤ 2 ∧
    (∀ k, k < s.remaining.length / 2 → chunkSupported s.remaining k) ∧
    1 < f.remaining.length / 2 ∧ ¬ chunkSupported f.remaining 1 ∧ (∀ j, j < 1 → chunkSupported f.remaining j) := by decide

theorem witness_ReferenceRunOfAPrefix :
    [0x8B#8, 0xC3#8].length % 2 = 0 ∧ (referenceRun [0x0A#8] [0x8B#8, 0xC3#8]).status = .done ∧
    [0xB8#8, 0x01#8].length % 2 = 0 ∧ (referenceRun [0x0A#8] [0xB8#8, 0x01#8]).status = .fault 0b101110#6 := by decide

end Sys2Proof.Tests
end

section
/-! How the output stream grows in a step (20_memory.md R46, R47, 43_stream_driver.md R134). -/

namespace Sys2Proof.Machine

variable {s t : State}

/-- With agreeing ports an outstanding line is the rendering of a Decoded Instruction, and the text port shows it. -/
theorem outstanding_rendered_of_portsOk (hports : s.PortsOk) (ho : s.outstanding ≠ none) :
    ∃ i, s.outstanding = some (render i) ∧ s.outText = some (render i) := by
  obtain ⟨-, htext, hout, -⟩ := hports
  have hpresented : s.outstanding = s.outText := hout.resolve_left ho
  cases hd : s.decoded with
  | none => exact absurd (by rw [hpresented, htext, hd]; rfl) ho
  | some i =>
    have hline : s.outText = some (render i) := by rw [htext, hd]; rfl
    exact ⟨i, hpresented.trans hline, hline⟩

/-- The output side of a step emits the outstanding line. -/
theorem emitsLine_consume {text : List Byte} (ho : s.outstanding = some text) : EmitsLine s s.consume text := by
  constructor <;> intro h <;> simp [h, ho, State.pendingLine]

/-- Emitting a line writes nothing or the whole line. -/
theorem output_cases_of_emitsLine {text : List Byte} (h : EmitsLine s t text) :
    t.output = s.output ∨ t.output = s.output ++ text ++ s.lineTerminator := by
  obtain ⟨htaken, hwaits⟩ := h
  cases hr : s.outReady with
  | false => exact .inl (hwaits hr).1
  | true => exact .inr (htaken hr).1

/-- Settles O38: of the seven cases of a step only two touch the output, taking the outstanding line and accepting a
move, and both emit the line presented on the text port; the fatal stop is among the silent ones. -/
theorem outputGrowsByWholeLines : Obligations.OutputGrowsByWholeLines := by
  intro s t hports hstep
  obtain ⟨_, -, rfl⟩ | ⟨-, -, rfl⟩ | ⟨-, hrun, ho, rfl⟩ | ⟨-, -, -, -, rfl⟩ | ⟨-, -, rfl⟩ | ⟨_, -, -, -, -, rfl⟩ |
    ⟨c, i, ⟨hrun, -⟩, -, -, -, rfl⟩ := step_cases hstep
  · exact .inl (s.applyReset_output _)
  · exact .inl s.noChunk_output
  · obtain ⟨i, hline, htext⟩ := outstanding_rendered_of_portsOk hports ho
    exact (output_cases_of_emitsLine (emitsLine_consume hline)).imp_right fun h => ⟨i, h, htext, hrun, hrun⟩
  · exact .inl s.noChunk_output
  · exact .inl s.cleanEnd_output
  · exact .inl (s.advance.fatalStop_output _ _ _)
  · have hemits := emitsLine_emitMove (chunkSlices c) (instrDecoded i) s.advance
    exact (output_cases_of_emitsLine hemits).imp_right fun h => ⟨instrDecoded i, h, rfl, hrun, hrun⟩

end Sys2Proof.Machine
end

section
/-! The accessors of the slicer as arithmetic on the two bytes, and the two selector tables (40_bitfield_accessors.md
R70 to R80). -/

namespace Sys2Proof

variable (c : Chunk)

/-- R70: the 6 bits kept hold the whole shifted byte. -/
theorem Chunk.opcode_toNat : c.opcode.toNat = c.byte0.toNat / 4 := by
  have hfits : c.byte0.toNat / 4 < 2 ^ 6 := by omega
  simpa [Chunk.opcode, Nat.shiftRight_eq_div_pow] using hfits

/-- R71: bit 0 of a byte is its parity. -/
theorem Chunk.width_iff_toNat : c.width = true ↔ c.byte0.toNat % 2 = 1 := by
  simp [Chunk.width, BitVec.getLsbD, Nat.testBit_eq_decide_div_mod_eq]

/-- R72: bit 1 of a byte is the parity of its half. -/
theorem Chunk.direction_iff_toNat : c.direction = true ↔ c.byte0.toNat / 2 % 2 = 1 := by
  simp [Chunk.direction, BitVec.getLsbD, Nat.testBit_eq_decide_div_mod_eq]

/-- The raw `reg` field of R74 and R75: the 3-bit width cuts off the `mod` bits above it. -/
theorem Chunk.regSel_eq_ofNat : c.regSel = BitVec.ofNat 3 (c.byte1.toNat / 8) := by
  apply BitVec.eq_of_toNat_eq
  simp [Chunk.regSel, Nat.shiftRight_eq_div_pow]

/-- The raw `rm` field of R76 and R77: the 3-bit width cuts off the two fields above it. -/
theorem Chunk.rmSel_eq_ofNat : c.rmSel = BitVec.ofNat 3 c.byte1.toNat := by
  apply BitVec.eq_of_toNat_eq
  simp [Chunk.rmSel]

/-- Settles O7: the raw slice of each field is the arithmetic one, and the four register accessors look the raw
selector up in the table of their width. -/
theorem accessorsSliceTheBytes : Obligations.AccessorsSliceTheBytes := fun c =>
  have hreg := c.regSel_eq_ofNat
  have hrm := c.rmSel_eq_ofNat
  ⟨c.opcode_toNat, c.width_iff_toNat, c.direction_iff_toNat,
    congrArg Full16.ofSel hreg, congrArg Half8.ofSel hreg, congrArg Full16.ofSel hrm, congrArg Half8.ofSel hrm⟩

/-- Settles O9: the eight entries of each table, looked up one by one. -/
theorem registerTablesInSelectorOrder : Obligations.RegisterTablesInSelectorOrder := ⟨rfl, rfl⟩

/-- Settles O10: in each table `sel` is the inverse of `ofSel` on both sides. -/
theorem selectorTablesAreBijections : Obligations.SelectorTablesAreBijections :=
  ⟨Full16.sel_of_ofSel, Full16.ofSel_of_sel, Half8.sel_of_ofSel, Half8.ofSel_of_sel⟩

end Sys2Proof
end

section
/-! The dispatch as arithmetic on `byte0` (41_decode_dispatch.md R90, R91). -/

namespace Sys2Proof

variable {c : Chunk}

/-- R90: `0b100010` is 34, and an opcode is told by its value. -/
theorem Chunk.opcode_supported_iff_toNat : c.opcode = supportedOpcode ↔ c.byte0.toNat / 4 = 34 := by
  rw [← c.opcode_toNat]
  exact BitVec.toNat_inj.symm

/-- R70: the opcode is the 6-bit word of its value. -/
theorem Chunk.opcode_eq_ofNat : c.opcode = BitVec.ofNat 6 (c.byte0.toNat / 4) := by
  rw [← c.opcode_toNat, BitVec.ofNat_toNat, BitVec.setWidth_eq]

/-- The dispatch answers a supported opcode with `decode_mov` (R90). -/
theorem blockDecode_supported (h : c.opcode = supportedOpcode) : blockDecode c = .ok (decodeMov c) := if_pos h

/-- `decode_mov` with its two tests read off `byte0` (R91). -/
theorem decodeMov_eq_toNat : decodeMov c =
    if c.byte0.toNat % 2 = 1 then
      if c.byte0.toNat / 2 % 2 = 1 then .movFull c.reg c.rm else .movFull c.rm c.reg
    else
      if c.byte0.toNat / 2 % 2 = 1 then .movHalf c.regHalf c.rmHalf else .movHalf c.rmHalf c.regHalf := by
  simp only [decodeMov, c.width_iff_toNat, c.direction_iff_toNat]

/-- Settles O6: a supported opcode goes to `decode_mov`, whose two branches are bit 0 and then bit 1 of `byte0`; any
other opcode is the one the rejection carries. -/
theorem dispatchBranchesOnWidthThenDirection : Obligations.DispatchBranchesOnWidthThenDirection := by
  intro c
  constructor
  · intro hop
    rw [blockDecode_supported (Chunk.opcode_supported_iff_toNat.mpr hop), decodeMov_eq_toNat]
  · intro hop
    rw [blockDecode_unsupported (mt Chunk.opcode_supported_iff_toNat.mp hop), Chunk.opcode_eq_ofNat]

end Sys2Proof
end

section
/-! The sixteen register names (42_mnemonic_renderer.md R110). -/

namespace Sys2Proof.Machine

/-- The full-width identities in selector order are all there are (40_bitfield_accessors.md R78). -/
theorem mem_fullRegisters (r : Full16) : r ∈ [Full16.ax, .cx, .dx, .bx, .sp, .bp, .si, .di] := by
  cases r <;> simp

/-- The half-width identities in selector order are all there are (40_bitfield_accessors.md R79). -/
theorem mem_halfRegisters (r : Half8) : r ∈ [Half8.al, .cl, .dl, .bl, .ah, .ch, .dh, .bh] := by
  cases r <;> simp

/-- A function whose values along a complete list do not repeat is injective. -/
theorem injective_of_nodup_map {α β : Type} {f : α → β} {l : List α} (hall : ∀ a, a ∈ l) (hnodup : (l.map f).Nodup) :
    Function.Injective f :=
  fun a b h => List.inj_on_of_nodup_map hnodup (hall a) (hall b) h

theorem fullName_injective : Function.Injective fullName := injective_of_nodup_map mem_fullRegisters (by decide)

theorem halfName_injective : Function.Injective halfName := injective_of_nodup_map mem_halfRegisters (by decide)

/-- A half-width name ends in `l` or `h`. -/
theorem halfName_second (r : Half8) : (halfName r)[1]? ∈ [some 'l', some 'h'] := by
  cases r <;> decide

/-- No full-width name ends in `l` or `h`. -/
theorem fullName_second (r : Full16) : (fullName r)[1]? ∉ [some 'l', some 'h'] := by
  cases r <;> decide

/-- A name tells its width class by its second letter. -/
theorem fullName_ne_halfName (a : Full16) (b : Half8) : fullName a ≠ halfName b := by
  intro h
  exact fullName_second a (h ▸ halfName_second b)

/-- Settles O12: the two tables are read off selector by selector; distinctness within a width class is that its table
has no repetition, and across the classes it is the second letter. -/
theorem registerNamesInSelectorOrder : Obligations.RegisterNamesInSelectorOrder :=
  ⟨rfl, rfl, fun _ _ h => fullName_injective h, fun _ _ h => halfName_injective h, fullName_ne_halfName⟩

end Sys2Proof.Machine
end

section
/-! The ten positions of the text (42_mnemonic_renderer.md R112 to R114). -/

namespace Sys2Proof.Machine

/-- The text has as many characters as it has bytes. -/
theorem renderChars_length (i : Decoded) : (renderChars i).length = 10 := by
  have hbytes : ((renderChars i).map charByte).length = 10 := render_length i
  rwa [List.length_map] at hbytes

/-- R113: with two-letter names, the letters of `mov <dst>, <src>` stand at fixed positions. -/
theorem moveText_positions {dst src : List Char} (hdst : dst.length = 2) (hsrc : src.length = 2) :
    ∃ d0 d1 s0 s1, dst = [d0, d1] ∧ src = [s0, s1] ∧
      moveText ['m', 'o', 'v'] dst src = ['m', 'o', 'v', ' ', d0, d1, ',', ' ', s0, s1] := by
  obtain ⟨d0, d1, rfl⟩ := List.length_eq_two.mp hdst
  obtain ⟨s0, s1, rfl⟩ := List.length_eq_two.mp hsrc
  exact ⟨d0, d1, s0, s1, rfl, rfl, rfl⟩

/-- Settles O13: both constructors fill the one template, and every name of either width class has two letters. -/
theorem textHasTenFixedPositions : Obligations.TextHasTenFixedPositions :=
  ⟨renderChars_length,
    fun dst src => moveText_positions (fullName_length dst) (fullName_length src),
    fun dst src => moveText_positions (halfName_length dst) (halfName_length src)⟩

end Sys2Proof.Machine
end

section
/-! Decoding and the model's encoder are inverse to each other (30_encoding.md R50, R58, R62; log 1), and the rows of
the opcode table are the dispatch (41_decode_dispatch.md R90 to R98). -/

namespace Sys2Proof

/-- The row of an encoded instruction is told by its first byte, and its fields are those put into the second. -/
theorem decodeChunk_encodeChunk (i : Instr) : decodeChunk (encodeChunk i) = .ok i := by
  cases i <;>
    simp [decodeChunk, encodeChunk, Chunk.addressingMode, Chunk.regHalf, Chunk.rmHalf, Chunk.reg, Chunk.rm]

theorem encodeChunk_injective : Function.Injective encodeChunk := fun i j h =>
  Except.ok.inj (by rw [← decodeChunk_encodeChunk i, h, decodeChunk_encodeChunk j])

/-- Decoding the bytes of a chunk that matches a row leaves what follows them (R59). -/
theorem decode_of_decodeChunk {c : Chunk} {i : Instr} (h : decodeChunk c = .ok i) (rest : List Byte) :
    decode (c.bytes ++ rest) = .ok (i, rest) := by
  simp [decode, Chunk.bytes, h]

/-- What decodes from bytes is the instruction of the first two, and the rest is left. -/
theorem decode_eq_ok_iff {bytes rest : List Byte} {i : Instr} :
    decode bytes = .ok (i, rest) ↔ bytes = encode i ++ rest := by
  constructor
  · intro h
    match bytes with
    | [] | [_] => cases h
    | b0 :: b1 :: tail =>
      cases hd : decodeChunk ⟨b0, b1⟩ with
      | error op => simp [decode, hd] at h
      | ok j =>
        obtain ⟨rfl, rfl⟩ : j = i ∧ tail = rest := by simpa [decode, hd] using h
        simp [encode, encodeChunk_of_decodeChunk hd, Chunk.bytes]
  · rintro rfl
    exact decode_of_decodeChunk (decodeChunk_encodeChunk i) rest

/-- Settles O2: an encoding is one chunk, and decoding that chunk finds the row and the fields it was made of. -/
theorem decodeOfEncodeIsTheInstruction : Obligations.DecodeOfEncodeIsTheInstruction :=
  fun _ _ => ⟨rfl, decode_eq_ok_iff.mpr rfl⟩

/-- Settles O3: each of the four first bytes leaves only the second byte free, and its three fields cover it. -/
theorem decodedBytesAreTheirEncoding : Obligations.DecodedBytesAreTheirEncoding :=
  fun _ _ _ h => decode_eq_ok_iff.mp h

/-- Settles O1: each word is decoded as it stands. -/
theorem wordsOfTheEncodingTableDecode : Obligations.WordsOfTheEncodingTableDecode := by
  unfold Obligations.WordsOfTheEncodingTableDecode
  decide

/-! ### The supported opcode -/

/-- The laws of the four constructors as one. -/
theorem encodedForm (i : Instr) : Laws.EncodedForm.Statement i := by
  cases i with
  | movRm8Reg8 m reg rm => exact Laws.EncodedForm.movRm8Reg8 m reg rm
  | movRm16Reg16 m reg rm => exact Laws.EncodedForm.movRm16Reg16 m reg rm
  | movReg8Rm8 m reg rm => exact Laws.EncodedForm.movReg8Rm8 m reg rm
  | movReg16Rm16 m reg rm => exact Laws.EncodedForm.movReg16Rm16 m reg rm

theorem opcode_encodeChunk (i : Instr) : (encodeChunk i).opcode = supportedOpcode := by
  obtain ⟨-, hop, -⟩ := encodedForm i
  exact hop

/-- R58: the supported opcode with any width and direction is the range 0x88 to 0x8B of the first byte. -/
theorem Chunk.opcode_supported_iff_range {c : Chunk} :
    c.opcode = supportedOpcode ↔ 0x88 ≤ c.byte0.toNat ∧ c.byte0.toNat ≤ 0x8B := by
  rw [c.opcode_supported_iff_toNat]
  omega

/-- A row of the opcode table matches exactly the chunks of the supported opcode (R58, R62). -/
theorem exists_decodeChunk_iff {c : Chunk} : (∃ i, decodeChunk c = .ok i) ↔ c.opcode = supportedOpcode := by
  constructor
  · rintro ⟨i, hi⟩
    rw [← encodeChunk_of_decodeChunk hi, opcode_encodeChunk]
  · intro hop
    obtain ⟨i, hi, -⟩ | ⟨-, hne⟩ := decodeChunk_cases c
    · exact ⟨i, hi⟩
    · exact absurd hop hne

theorem decodeChunk_of_unsupported {c : Chunk} (h : c.opcode ≠ supportedOpcode) : decodeChunk c = .error c.opcode := by
  obtain ⟨i, hi, -⟩ | ⟨herr, -⟩ := decodeChunk_cases c
  · exact absurd (exists_decodeChunk_iff.mp ⟨i, hi⟩) h
  · exact herr

/-- Settles O4: matching a row, having the supported opcode and lying in the range are the same. -/
theorem exactlyFourFirstBytesDecode : Obligations.ExactlyFourFirstBytesDecode := fun _ =>
  ⟨exists_decodeChunk_iff.trans Chunk.opcode_supported_iff_range,
    fun hrange => decodeChunk_of_unsupported (mt Chunk.opcode_supported_iff_range.mp hrange)⟩

/-! ### The dispatch -/

/-- The row a chunk matches has the Decoded Instruction of `decode_mov` (R91, R93 to R96). -/
theorem instrDecoded_of_decodeChunk {c : Chunk} {i : Instr} (h : decodeChunk c = .ok i) :
    Machine.instrDecoded i = decodeMov c := by
  have hdispatch := blockDecode_encodeChunk i
  rw [encodeChunk_of_decodeChunk h, blockDecode_supported (exists_decodeChunk_iff.mp ⟨i, h⟩)] at hdispatch
  exact (Except.ok.inj hdispatch).symm

/-- Settles O5: a chunk that matches a row goes to `decode_mov` on both sides, and any other is rejected with its
opcode on both sides. -/
theorem tableRowsAgreeWithTheDispatch : Obligations.TableRowsAgreeWithTheDispatch := by
  intro c
  by_cases hop : c.opcode = supportedOpcode
  · obtain ⟨i, hi⟩ := exists_decodeChunk_iff.mpr hop
    rw [hi, blockDecode_supported hop, ← instrDecoded_of_decodeChunk hi]
    rfl
  · rw [decodeChunk_of_unsupported hop, blockDecode_unsupported hop]
    rfl

/-! ### The eight encodings of a Decoded Instruction (R98) -/

/-- The four addressing modes (10_state.md R23). -/
def allModes : List Mode := [.memNoDisp, .memDisp8, .memDisp16, .regDirect]

theorem mem_allModes (m : Mode) : m ∈ allModes := by cases m <;> simp [allModes]

/-- The eight rows with a given Decoded Instruction: any mode, and either direction with `reg` and `rm` exchanged. -/
def movesOf : Decoded → List Instr
  | .movFull dst src => allModes.flatMap fun m =>
      [.movRm16Reg16 m src dst, .movReg16Rm16 m dst src]
  | .movHalf dst src => allModes.flatMap fun m =>
      [.movRm8Reg8 m src dst, .movReg8Rm8 m dst src]

theorem movesOf_length (d : Decoded) : (movesOf d).length = 8 := by cases d <;> rfl

theorem movesOf_nodup (d : Decoded) : (movesOf d).Nodup := by cases d <;> simp [movesOf, allModes]

theorem mem_movesOf {i : Instr} {d : Decoded} : i ∈ movesOf d ↔ Machine.instrDecoded i = d := by
  cases d <;> cases i <;> simp [movesOf, mem_allModes, Machine.instrDecoded, and_comm]

/-- The chunks of a Decoded Instruction. -/
def chunksOf (d : Decoded) : List Chunk := (movesOf d).map encodeChunk

theorem chunksOf_length (d : Decoded) : (chunksOf d).length = 8 := by
  rw [chunksOf, List.length_map, movesOf_length]

theorem chunksOf_nodup (d : Decoded) : (chunksOf d).Nodup := (movesOf_nodup d).map encodeChunk_injective

/-- The dispatch answers `d` exactly for the chunks of `d`. -/
theorem blockDecode_eq_ok_iff {c : Chunk} {d : Decoded} : blockDecode c = .ok d ↔ c ∈ chunksOf d := by
  constructor
  · intro h
    have hrows := tableRowsAgreeWithTheDispatch c
    cases hi : decodeChunk c with
    | error op => rw [h, hi] at hrows; cases hrows
    | ok i =>
      rw [h, hi] at hrows
      exact List.mem_map.mpr ⟨i, mem_movesOf.mpr (Except.ok.inj hrows), encodeChunk_of_decodeChunk hi⟩
  · intro h
    obtain ⟨i, hi, rfl⟩ := List.mem_map.mp h
    rw [blockDecode_encodeChunk, mem_movesOf.mp hi]

/-- Settles O11: the exchanged row has the same Decoded Instruction, and the rows of one are four modes times two
directions. -/
theorem eachDecodedInstructionHasEightChunks : Obligations.EachDecodedInstructionHasEightChunks := by
  refine ⟨fun m a b => ?_, fun m a b => ?_, fun d => ⟨chunksOf d, chunksOf_nodup d, chunksOf_length d, fun _ =>
    blockDecode_eq_ok_iff⟩⟩ <;>
  · rw [blockDecode_encodeChunk, blockDecode_encodeChunk]
    rfl

end Sys2Proof
end

section
/-! The mode of each quarter of `byte1` (40_bitfield_accessors.md R73). -/

namespace Sys2Proof

/-- The raw `mod` field is the quarter `byte1` lies in. -/
theorem Chunk.modBits_eq_ofNat (c : Chunk) : c.modBits = BitVec.ofNat 2 (c.byte1.toNat / 64) := by
  apply BitVec.eq_of_toNat_eq
  simp [Chunk.modBits, Nat.shiftRight_eq_div_pow]

/-- Settles O8: the mode is looked up at the number of the quarter, in a table whose inverse is `Mode.bits`. -/
theorem addressingModeOfEachQuarter : Obligations.AddressingModeOfEachQuarter := by
  refine ⟨fun c => ?_, Mode.bits_of_ofBits, Mode.ofBits_of_bits⟩
  rw [Chunk.addressingMode, c.modBits_eq_ofNat]
  refine ⟨?_, ?_, ?_, ?_⟩ <;>
  · intro hquarter
    rw [hquarter]
    rfl

end Sys2Proof
end

section
/-! The bytes of the text, on the wires and back (42_mnemonic_renderer.md R115 to R118). -/

namespace Sys2Proof.Machine

/-! ### The alphabet (R115) -/

/-- The fifteen characters of the texts (R115). -/
def textAlphabet : List Char := [' ', ',', 'a', 'b', 'c', 'd', 'h', 'i', 'l', 'm', 'o', 'p', 's', 'v', 'x']

theorem fullName_subset_alphabet (r : Full16) : fullName r ⊆ textAlphabet := by
  cases r <;> decide

theorem halfName_subset_alphabet (r : Half8) : halfName r ⊆ textAlphabet := by
  cases r <;> decide

/-- The template adds only characters of the alphabet. -/
theorem moveText_subset_alphabet {dst src : List Char} (hdst : dst ⊆ textAlphabet) (hsrc : src ⊆ textAlphabet) :
    moveText ['m', 'o', 'v'] dst src ⊆ textAlphabet := by
  have hmnemonic : ['m', 'o', 'v'] ⊆ textAlphabet := by decide
  have hspace : [' '] ⊆ textAlphabet := by decide
  have hcomma : [',', ' '] ⊆ textAlphabet := by decide
  simp only [moveText, List.append_subset]
  exact ⟨⟨⟨⟨hmnemonic, hspace⟩, hdst⟩, hcomma⟩, hsrc⟩

theorem renderChars_subset_alphabet (i : Decoded) : renderChars i ⊆ textAlphabet := by
  cases i with
  | movFull dst src => exact moveText_subset_alphabet (fullName_subset_alphabet dst) (fullName_subset_alphabet src)
  | movHalf dst src => exact moveText_subset_alphabet (halfName_subset_alphabet dst) (halfName_subset_alphabet src)

/-- Settles O14: the codes and the names are read off one by one, and a text draws its characters from the template and
two names, all within the alphabet. -/
theorem textBytesAreTheAsciiCodes : Obligations.TextBytesAreTheAsciiCodes := by
  refine ⟨by decide, by decide, by decide, fun i b hb => ?_, by decide⟩
  exact List.map_subset charByte (renderChars_subset_alphabet i) hb

/-! ### The wires (R116) -/

theorem textWires_cons (b : Byte) (rest : List Byte) :
    textWires (b :: rest) = (textWires rest <<< 8) ||| b.setWidth 80 := rfl

/-- Packing puts the first byte into the low eight bits. -/
theorem textWires_cons_low (b : Byte) (rest : List Byte) : (textWires (b :: rest)).extractLsb' 0 8 = b := by
  apply BitVec.eq_of_getLsbD_eq
  intro j hj
  have hwire : j < 80 := by omega
  simp [textWires_cons, hj, hwire]

/-- Packing puts what stands behind the first byte eight bits higher. -/
theorem textWires_cons_high (b : Byte) (rest : List Byte) {k : Nat} (hk : k + 1 < 10) :
    (textWires (b :: rest)).extractLsb' (8 * (k + 1)) 8 = (textWires rest).extractLsb' (8 * k) 8 := by
  apply BitVec.eq_of_getLsbD_eq
  intro j hj
  have hwire : 8 * (k + 1) + j < 80 := by omega
  have hshift : 8 * (k + 1) + j - 8 = 8 * k + j := by omega
  have hnotLow : ¬ 8 * (k + 1) + j < 8 := by omega
  have hhigh : b.getLsbD (8 * (k + 1) + j) = false := BitVec.getLsbD_of_ge b _ (by omega)
  have hbelow : 8 * k + j < 80 := by omega
  simp [textWires_cons, hj, hwire, hshift, hnotLow, hhigh, BitVec.getLsbD_eq_getElem hbelow]

/-- Up to the width of the port, the byte at a position of the text stands at that position of the wires. -/
theorem getElem?_eq_textWires (text : List Byte) {k : Nat} (hk : k < 10) (hlen : k < text.length) :
    text[k]? = some ((textWires text).extractLsb' (8 * k) 8) := by
  induction text generalizing k with
  | nil => simp at hlen
  | cons b rest ih =>
    cases k with
    | zero => rw [Nat.mul_zero, textWires_cons_low]; rfl
    | succ k => rw [textWires_cons_high b rest hk, ← ih (by omega) (by simpa using hlen)]; rfl

/-- Settles O16: the text has ten bytes, and each position is found on the wires. -/
theorem textWiresPackByPosition : Obligations.TextWiresPackByPosition := by
  intro i k hk
  have hlen : k < (render i).length := by rw [render_length]; exact hk
  exact getElem?_eq_textWires (render i) hk hlen

/-! ### The text determines the Decoded Instruction (R118) -/

/-- The bytes of a register's name, of either width class (R110, R115). -/
def nameBytes : Full16 ⊕ Half8 → List Byte
  | .inl r => (fullName r).map charByte
  | .inr r => (halfName r).map charByte

theorem nameBytes_length (r : Full16 ⊕ Half8) : (nameBytes r).length = 2 := by
  cases r <;> simp [nameBytes]

/-- The sixteen registers of both width classes. -/
def allRegisters : List (Full16 ⊕ Half8) :=
  [Full16.ax, .cx, .dx, .bx, .sp, .bp, .si, .di].map .inl ++ [Half8.al, .cl, .dl, .bl, .ah, .ch, .dh, .bh].map .inr

theorem mem_allRegisters (r : Full16 ⊕ Half8) : r ∈ allRegisters := by
  cases r with
  | inl r => exact List.mem_append_left _ (List.mem_map_of_mem (mem_fullRegisters r))
  | inr r => exact List.mem_append_right _ (List.mem_map_of_mem (mem_halfRegisters r))

/-- The sixteen byte pairs do not repeat. -/
theorem nameBytes_injective : Function.Injective nameBytes := injective_of_nodup_map mem_allRegisters (by decide)

/-- The destination and the source of a Decoded Instruction. -/
def operandsOf : Decoded → (Full16 ⊕ Half8) × (Full16 ⊕ Half8)
  | .movFull dst src => (.inl dst, .inl src)
  | .movHalf dst src => (.inr dst, .inr src)

theorem operandsOf_injective : Function.Injective operandsOf := by
  intro a b h
  cases a <;> cases b <;> simp_all [operandsOf]

/-- The text is the two names in the template. -/
theorem render_eq_nameBytes (i : Decoded) : render i =
    ['m', 'o', 'v', ' '].map charByte ++ (nameBytes (operandsOf i).1 ++
      ([',', ' '].map charByte ++ nameBytes (operandsOf i).2)) := by
  cases i <;> simp [render_movFull, render_movHalf, movBytes, operandsOf, nameBytes]

/-- R118: names have one length, so equal texts have equal names at both places. -/
theorem render_injective : Function.Injective render := by
  intro a b h
  rw [render_eq_nameBytes, render_eq_nameBytes] at h
  obtain ⟨hdst, htail⟩ := List.append_inj (List.append_cancel_left h) (by rw [nameBytes_length, nameBytes_length])
  have hsrc := List.append_cancel_left htail
  exact operandsOf_injective (Prod.ext (nameBytes_injective hdst) (nameBytes_injective hsrc))

/-- Settles O15: a line comes from one Decoded Instruction, and that from its eight chunks. -/
theorem textDeterminesTheInstruction : Obligations.TextDeterminesTheInstruction := by
  refine ⟨fun _ _ h => render_injective h, fun d => ⟨chunksOf d, chunksOf_nodup d, chunksOf_length d, fun c => ?_⟩⟩
  rw [← blockDecode_eq_ok_iff]
  constructor
  · rintro ⟨e, he, htext⟩
    rwa [render_injective htext] at he
  · intro hd
    exact ⟨d, hd, rfl⟩

end Sys2Proof.Machine
end

section
/-! A step from the chunk's bytes, and the cases of a step under names. -/

namespace Sys2Proof.Machine

variable {s t : State}

/-- An accepted chunk of the supported opcode: the ports are its fields and `decode_mov` of it, and its line is emitted
(43_stream_driver.md R133). -/
theorem step_of_supported {c : Chunk} (ha : s.Accepting) (hc : s.streamNext = .pair c) (hop : c.opcode = supportedOpcode) :
    step s = .next (s.advance.emitMove (chunkSlices c) (decodeMov c)) := by
  obtain ⟨i, hi⟩ := exists_decodeChunk_iff.mpr hop
  rw [step_of_move ha hc hi, instrDecoded_of_decodeChunk hi]

/-- An accepted chunk of any other opcode is the fatal stop with that opcode (43_stream_driver.md R136). -/
theorem step_of_fatal {c : Chunk} (ha : s.Accepting) (hc : s.streamNext = .pair c) (hop : c.opcode ≠ supportedOpcode) :
    step s = .next (s.advance.fatalStop .unsupportedOpcode c.opcode c) :=
  step_of_unsupported ha hc (decodeChunk_of_unsupported hop)

/-- `step_cases` as a relation between a state and its next state, the chunk's two cases told by its opcode
(43_stream_driver.md R130 to R139). -/
inductive StepTo (s : State) : State → Prop
  /-- An asserted reset (70_reset_and_hazards.md R181). -/
  | reset {src : Source} (hr : s.resetIn = some src) : StepTo s (s.applyReset src)
  /-- A step after the end of the run (R138). -/
  | ended (hr : s.resetIn = none) (hp : s.phase ≠ .run) : StepTo s s.noChunk
  /-- A wait for the consumer, or its taking of the outstanding line (R139). -/
  | handover (hr : s.resetIn = none) (hp : s.phase = .run) (ho : s.outstanding ≠ none) : StepTo s s.consume
  /-- A wait for the reader (R132). -/
  | idle (hr : s.resetIn = none) (hp : s.phase = .run) (ho : s.outstanding = none) (hv : s.inValid = false) :
    StepTo s s.noChunk
  /-- The clean end (R135). -/
  | cleanEnd (ha : s.Accepting) (hc : s.streamNext = .endOfStream) : StepTo s s.cleanEnd
  /-- The fatal stop (R136). -/
  | fatal {c : Chunk} (ha : s.Accepting) (hc : s.streamNext = .pair c) (hop : c.opcode ≠ supportedOpcode) :
    StepTo s (s.advance.fatalStop .unsupportedOpcode c.opcode c)
  /-- An accepted move (R133). -/
  | move {c : Chunk} (ha : s.Accepting) (hc : s.streamNext = .pair c) (hop : c.opcode = supportedOpcode) :
    StepTo s (s.advance.emitMove (chunkSlices c) (decodeMov c))

theorem stepTo_of_step (h : step s = .next t) : StepTo s t := by
  obtain ⟨_, hr, rfl⟩ | ⟨hr, hp, rfl⟩ | ⟨hr, hp, ho, rfl⟩ | ⟨hr, hp, ho, hv, rfl⟩ | ⟨ha, hc, rfl⟩ |
    ⟨_, ha, hc, -, hop, rfl⟩ | ⟨c, i, ha, hc, hd, -, rfl⟩ := step_cases h
  · exact .reset hr
  · exact .ended hr hp
  · exact .handover hr hp ho
  · exact .idle hr hp ho hv
  · exact .cleanEnd ha hc
  · exact .fatal ha hc hop
  · rw [instrDecoded_of_decodeChunk hd]
    exact .move ha hc (exists_decodeChunk_iff.mp ⟨i, hd⟩)

theorem step_of_stepTo (h : StepTo s t) : step s = .next t := by
  cases h with
  | reset hr => exact step_of_reset hr
  | ended hr hp => exact step_of_ended hr hp
  | handover hr hp ho => exact step_of_outstanding hr hp ho
  | idle hr hp ho hv => exact step_of_idle hr ho hv
  | cleanEnd ha hc => exact step_of_end ha hc
  | fatal ha hc hop => exact step_of_fatal ha hc hop
  | move ha hc hop => exact step_of_supported ha hc hop

/-- An instruction answers a next state, taken or not (log 16). -/
theorem exists_exec_eq_next (i : Instr) (s : State) : ∃ t, exec i s = .next t := by
  cases hs : s.inReady with
  | true => exact ⟨_, exec_when_ready i hs⟩
  | false => exact ⟨_, exec_when_not_ready i hs⟩

/-- A step answers what its fetch settled, or its instruction's next state. -/
theorem exists_step_eq_next (s : State) : ∃ t, step s = .next t := by
  unfold step
  cases fetch s with
  | instr i u => exact exists_exec_eq_next i u
  | settled u => exact ⟨u, rfl⟩

/-- Settles O35: neither a step nor an instruction has another outcome. -/
theorem everyStepAnswersANextState : Obligations.EveryStepAnswersANextState :=
  ⟨exists_step_eq_next, exists_exec_eq_next⟩

end Sys2Proof.Machine
end

section
/-! The legal states are kept by every step (10_state.md R21, 60_exceptions.md R151, R160, 43_stream_driver.md R133,
30_encoding.md R57): one lemma per operation of the sequencer. -/

namespace Sys2Proof.Machine

variable {s t : State}

/-- The sliced fields of a supported chunk decode to `decode_mov` of the chunk (30_encoding.md R57). -/
theorem slicesDecoded_chunkSlices {c : Chunk} (hop : c.opcode = supportedOpcode) :
    slicesDecoded (chunkSlices c) = some (decodeMov c) := by
  obtain ⟨i, hi⟩ := exists_decodeChunk_iff.mpr hop
  rw [← instrDecoded_of_decodeChunk hi, ← encodeChunk_of_decodeChunk hi, slicesDecoded_of_encodeChunk]

theorem slicesDecoded_of_unsupported {c : Chunk} (hop : c.opcode ≠ supportedOpcode) :
    slicesDecoded (chunkSlices c) = none := if_neg hop

/-- After the end no line is outstanding: one would be presented by a decoded chunk, which leaves the phase RUN. -/
theorem outstanding_none_of_ended (hports : s.PortsOk) (hp : s.phase ≠ .run) : s.outstanding = none := by
  by_contra ho
  obtain ⟨i, -, htext⟩ := outstanding_rendered_of_portsOk hports ho
  obtain ⟨-, hrender, -, hrun, -⟩ := hports
  refine hp (hrun ?_)
  rw [htext] at hrender
  cases hd : s.decoded with
  | none => rw [hd] at hrender; cases hrender
  | some d => simp [State.decValid, hd]

/-- Absent ports agree when nothing is outstanding. -/
theorem portsOk_of_absent (hslices : s.slices = none) (hdecoded : s.decoded = none) (htext : s.outText = none)
    (hstrobe : s.faultValid = false) (ho : s.outstanding = none) : s.PortsOk := by
  simp [State.PortsOk, State.decValid, hslices, hdecoded, htext, hstrobe, ho]

theorem legal_applyReset (src : Source) (s : State) : (s.applyReset src).Legal :=
  ⟨by simp [State.LatchOk], portsOk_of_absent rfl rfl rfl rfl rfl, Nat.zero_le _⟩

theorem legal_noChunk (h : s.Legal) (ho : s.outstanding = none) : s.noChunk.Legal := by
  obtain ⟨hlatch, -, hposition⟩ := h
  exact ⟨hlatch, portsOk_of_absent rfl rfl rfl rfl ho, hposition⟩

/-- The output side changes only what is outstanding. -/
theorem legal_consume (h : s.Legal) : s.consume.Legal := by
  obtain ⟨hlatch, ⟨hdecoded, htext, hline, hports⟩, hposition⟩ := h
  refine ⟨hlatch, ⟨hdecoded, htext, ?_, hports⟩, hposition⟩
  cases hr : s.outReady with
  | true => left; simp [hr]
  | false => simpa [hr] using hline

/-- The clean end leaves RUN, where the latch has its reset value, for DONE, where it must have it. -/
theorem legal_cleanEnd (h : s.Legal) (hp : s.phase = .run) (ho : s.outstanding = none) : s.cleanEnd.Legal := by
  obtain ⟨⟨hempty, -⟩, -, hposition⟩ := h
  exact ⟨⟨fun _ => hempty (by simp [hp]), by simp⟩, portsOk_of_absent rfl rfl rfl rfl ho, hposition⟩

theorem legal_fatalStop {c : Chunk} (hposition : s.PositionOk) (ho : s.outstanding = none)
    (hop : c.opcode ≠ supportedOpcode) : (s.fatalStop .unsupportedOpcode c.opcode c).Legal := by
  have hopcode : (chunkSlices c).opcode = c.opcode := rfl
  have hports : (s.fatalStop .unsupportedOpcode c.opcode c).PortsOk := by
    simp [State.PortsOk, State.decValid, ho, slicesDecoded_of_unsupported hop, hopcode]
  exact ⟨by simp [State.LatchOk, hop], hports, hposition⟩

theorem legal_emitMove {c : Chunk} (hlatch : s.LatchOk) (hposition : s.PositionOk) (hp : s.phase = .run)
    (hop : c.opcode = supportedOpcode) : (s.emitMove (chunkSlices c) (decodeMov c)).Legal := by
  have hports : (s.emitMove (chunkSlices c) (decodeMov c)).PortsOk := by
    simp [State.PortsOk, State.decValid, hp, slicesDecoded_chunkSlices hop]
  exact ⟨hlatch, hports, hposition⟩

/-- Settles O52: each of the operations a step can be keeps the latch, the ports and the position legal. -/
theorem everyStepKeepsTheStateLegal : Obligations.EveryStepKeepsTheStateLegal := by
  intro s t hlegal hstep
  have ⟨hlatch, hports, hposition⟩ := hlegal
  cases stepTo_of_step hstep with
  | reset hr => exact legal_applyReset _ s
  | ended hr hp => exact legal_noChunk hlegal (outstanding_none_of_ended hports hp)
  | handover hr hp ho => exact legal_consume hlegal
  | idle hr hp ho hv => exact legal_noChunk hlegal ho
  | cleanEnd ha hc =>
    obtain ⟨hp, ho, -⟩ := ha
    exact legal_cleanEnd hlegal hp ho
  | fatal ha hc hop =>
    obtain ⟨-, ho, -⟩ := ha
    obtain ⟨-, -, hadvanced⟩ := consumed_advance hposition hc
    exact legal_fatalStop hadvanced ho hop
  | move ha hc hop =>
    obtain ⟨hp, -⟩ := ha
    obtain ⟨-, -, hadvanced⟩ := consumed_advance hposition hc
    exact legal_emitMove hlatch hadvanced hp hop

/-- Settles O51: after reset every port is absent and the latch is empty, whatever the state before. -/
theorem resetStateIsLegal : Obligations.ResetStateIsLegal := legal_applyReset ⟨[], none⟩ State.reset

end Sys2Proof.Machine
end

section
/-! The reference run chunk by chunk (43_stream_driver.md R140). -/

namespace Sys2Proof.Machine

variable {terminator xs ys : List Byte}

@[simp] theorem referenceRun_nil : referenceRun terminator [] = ⟨[], .done⟩ := referenceRun_short (by simp)

@[simp] theorem referenceRun_singleton (b : Byte) : referenceRun terminator [b] = ⟨[], .done⟩ :=
  referenceRun_short (by simp)

/-- The reference run over a supported chunk prints its line first. -/
theorem referenceRun_supported (terminator : List Byte) {c : Chunk} (hop : c.opcode = supportedOpcode)
    (rest : List Byte) : referenceRun terminator (c.byte0 :: c.byte1 :: rest) =
      ⟨lineBytes terminator (decodeMov c) ++ (referenceRun terminator rest).output,
        (referenceRun terminator rest).status⟩ := by
  rw [referenceRun, show Chunk.mk c.byte0 c.byte1 = c from rfl, blockDecode_supported hop]

/-- Whole chunks that run to their end are followed by the run of what stands behind them. -/
theorem referenceRun_append_of_done (heven : xs.length % 2 = 0) (hdone : (referenceRun terminator xs).status = .done) :
    referenceRun terminator (xs ++ ys) =
      ⟨(referenceRun terminator xs).output ++ (referenceRun terminator ys).output,
        (referenceRun terminator ys).status⟩ := by
  induction xs using List.twoStepInduction with
  | nil => rfl
  | singleton b => simp at heven
  | cons_cons b0 b1 rest ih _ =>
    by_cases hop : (Chunk.mk b0 b1).opcode = supportedOpcode
    · have hrun := fun bytes => referenceRun_supported terminator hop bytes
      simp only [hrun] at hdone
      have hrest := ih (by simp at heven; omega) hdone
      simp [hrun, hrest]
    · simp [referenceRun_unsupported terminator hop] at hdone

/-- Nothing behind a fatal chunk is looked at. -/
theorem referenceRun_append_of_fault {op : Opcode} (hfault : (referenceRun terminator xs).status = .fault op) :
    referenceRun terminator (xs ++ ys) = referenceRun terminator xs := by
  induction xs using List.twoStepInduction with
  | nil => simp at hfault
  | singleton b => simp at hfault
  | cons_cons b0 b1 rest ih _ =>
    by_cases hop : (Chunk.mk b0 b1).opcode = supportedOpcode
    · have hrun := fun bytes => referenceRun_supported terminator hop bytes
      simp only [hrun] at hfault
      have hrest := ih hfault
      simp [hrun, hrest]
    · have hrun := fun bytes => referenceRun_unsupported terminator hop bytes
      simp [hrun]

/-- Settles O57: a run that was fatal looks at nothing behind it, one that was not goes on, and a lone byte is no chunk
to go on with. -/
theorem referenceRunOfAPrefix : Obligations.ReferenceRunOfAPrefix := by
  intro terminator xs ys heven
  refine ⟨fun hdone => ?_, fun op hfault => referenceRun_append_of_fault hfault, fun b => ?_⟩
  · rw [referenceRun_append_of_done heven hdone]
    exact ⟨rfl, rfl⟩
  · cases hstatus : (referenceRun terminator xs).status with
    | fault op => exact referenceRun_append_of_fault hstatus
    | done => simp [referenceRun_append_of_done heven hstatus, ← hstatus]

end Sys2Proof.Machine
end

section
/-! At every moment the machine has done what the reference semantics does with the chunks read (43_stream_driver.md
R140, 60_exceptions.md R158). -/

namespace Sys2Proof.Machine

variable {s t : State} {before : List Byte}

/-- `End` is delivered exactly when less than a chunk remains. -/
theorem streamNext_end_iff_remaining : s.streamNext = .endOfStream ↔ s.remaining.length < Config.chunkBytes := by
  rw [streamNext_end_iff, State.remaining, List.length_drop, Config.chunkBytes]
  omega

/-- A state whose run has just begun has done nothing of it. -/
theorem follows_of_start (hp : s.phase = .run) (ho : s.outstanding = none) (hk : s.nextChunk = 0) :
    s.OutputFollowsReference s.output := by
  simp [State.OutputFollowsReference, State.PositionOk, State.consumed, State.runStatus, hp, ho, hk]

/-- In RUN every chunk read so far had the supported opcode: the chunks read end in no fault. -/
theorem consumed_status_of_run (h : s.OutputFollowsReference before) (hp : s.phase = .run) :
    (referenceRun s.lineTerminator s.consumed).status = .done := by
  obtain ⟨-, -, hstatus, -⟩ := h
  simpa [State.runStatus, hp] using hstatus

/-- With one more chunk read, the reference run goes on with that chunk. -/
theorem referenceRun_consumed_advance {c : Chunk} (h : s.OutputFollowsReference before) (hp : s.phase = .run)
    (hc : s.streamNext = .pair c) :
    referenceRun s.lineTerminator s.advance.consumed =
      ⟨(referenceRun s.lineTerminator s.consumed).output ++ (referenceRun s.lineTerminator [c.byte0, c.byte1]).output,
        (referenceRun s.lineTerminator [c.byte0, c.byte1]).status⟩ := by
  have hdone := consumed_status_of_run h hp
  obtain ⟨hposition, -⟩ := h
  obtain ⟨hlength, happend, -⟩ := consumed_advance hposition hc
  rw [happend, referenceRun_append_of_done (by omega) hdone]

theorem follows_consume (h : s.OutputFollowsReference before) : s.consume.OutputFollowsReference before := by
  obtain ⟨hposition, houtput, hstatus, hend⟩ := h
  exact ⟨hposition, (output_pending_consume s).trans houtput, hstatus, hend⟩

theorem follows_cleanEnd (h : s.OutputFollowsReference before) (hp : s.phase = .run)
    (hc : s.streamNext = .endOfStream) : s.cleanEnd.OutputFollowsReference before := by
  have hdone := consumed_status_of_run h hp
  obtain ⟨hposition, houtput, -, -⟩ := h
  exact ⟨hposition, houtput, hdone, fun _ => streamNext_end_iff_remaining.mp hc⟩

/-- The fatal chunk adds nothing to the output and its opcode to the status. -/
theorem follows_fatalStop {c : Chunk} (h : s.OutputFollowsReference before) (hp : s.phase = .run)
    (hc : s.streamNext = .pair c) (hop : c.opcode ≠ supportedOpcode) :
    (s.advance.fatalStop .unsupportedOpcode c.opcode c).OutputFollowsReference before := by
  have hrun := referenceRun_consumed_advance h hp hc
  rw [referenceRun_unsupported s.lineTerminator hop, List.append_nil] at hrun
  obtain ⟨hposition, houtput, -, -⟩ := h
  obtain ⟨-, -, hadvanced⟩ := consumed_advance hposition hc
  refine ⟨hadvanced, ?_, congrArg RunResult.status hrun, by simp⟩
  exact houtput.trans (congrArg (before ++ RunResult.output ·) hrun).symm

/-- The move's line is written or outstanding, and the reference run prints it after the lines before it. -/
theorem follows_emitMove {c : Chunk} (h : s.OutputFollowsReference before) (hp : s.phase = .run)
    (ho : s.outstanding = none) (hc : s.streamNext = .pair c) (hop : c.opcode = supportedOpcode) :
    (s.advance.emitMove (chunkSlices c) (decodeMov c)).OutputFollowsReference before := by
  have hrun := referenceRun_consumed_advance h hp hc
  simp only [referenceRun_supported s.lineTerminator hop, referenceRun_nil, List.append_nil] at hrun
  obtain ⟨hposition, houtput, -, -⟩ := h
  rw [pendingLine_of_none ho, List.append_nil] at houtput
  obtain ⟨-, -, hadvanced⟩ := consumed_advance hposition hc
  have hstatus := congrArg RunResult.status hrun
  refine ⟨hadvanced, ?_, ?_, by simp [hp]⟩
  · calc (s.advance.emitMove (chunkSlices c) (decodeMov c)).output ++
          (s.advance.emitMove (chunkSlices c) (decodeMov c)).pendingLine
        = s.output ++ lineBytes s.lineTerminator (decodeMov c) := output_pending_emitMove _ _ s.advance
      _ = before ++ ((referenceRun s.lineTerminator s.consumed).output ++ lineBytes s.lineTerminator (decodeMov c)) := by
          rw [houtput, List.append_assoc]
      _ = before ++ (referenceRun s.lineTerminator s.advance.consumed).output := by rw [hrun]
  · exact hstatus.trans (by simp [State.runStatus, hp])

/-- Settles O54: each operation a step can be is matched by what the reference run does with the chunk it reads, if it
reads one. -/
theorem everyStepFollowsTheReference : Obligations.EveryStepFollowsTheReference := by
  intro before s t hfollows hstep
  cases stepTo_of_step hstep with
  | reset hr => exact ⟨by simp [hr], fun _ => follows_of_start rfl rfl rfl⟩
  | ended hr hp => exact ⟨fun _ => hfollows, fun hr' => absurd hr hr'⟩
  | handover hr hp ho => exact ⟨fun _ => follows_consume hfollows, fun hr' => absurd hr hr'⟩
  | idle hr hp ho hv => exact ⟨fun _ => hfollows, fun hr' => absurd hr hr'⟩
  | cleanEnd ha hc =>
    obtain ⟨hp, -, -, hr⟩ := ha
    exact ⟨fun _ => follows_cleanEnd hfollows hp hc, fun hr' => absurd hr hr'⟩
  | fatal ha hc hop =>
    obtain ⟨hp, -, -, hr⟩ := ha
    exact ⟨fun _ => follows_fatalStop hfollows hp hc hop, fun hr' => absurd hr hr'⟩
  | move ha hc hop =>
    obtain ⟨hp, ho, -, hr⟩ := ha
    exact ⟨fun _ => follows_emitMove hfollows hp ho hc hop, fun hr' => absurd hr hr'⟩

/-- Settles O53: after reset the run has just begun. -/
theorem resetStateFollowsReference : Obligations.ResetStateFollowsReference :=
  follows_of_start (s := State.reset) rfl rfl rfl

end Sys2Proof.Machine
end

section
/-! What a step can do to the phase, the latch, the position and the inputs: one look at each of its cases. -/

namespace Sys2Proof.Machine

variable {s t : State}

/-- Settles O33: every case but the reset and the step after the end begins in RUN. -/
theorem onlyResetLeavesTheEnd : Obligations.OnlyResetLeavesTheEnd := by
  intro s t hstep hended hleft
  cases stepTo_of_step hstep with
  | reset hr => exact ⟨by simp [hr], rfl⟩
  | ended hr hp => exact absurd rfl hleft
  | handover hr hp ho => exact absurd hp hended
  | idle hr hp ho hv => exact absurd hp hended
  | cleanEnd ha hc => exact absurd ha.1 hended
  | fatal ha hc hop => exact absurd ha.1 hended
  | move ha hc hop => exact absurd ha.1 hended

/-- Settles O34: without a transaction the phase stays RUN, and the three kinds of transaction exclude each other. -/
theorem phaseAfterAStepInRun : Obligations.PhaseAfterAStepInRun := by
  intro s t hrun hreset hstep
  simp only [← Chunk.opcode_supported_iff_range]
  cases stepTo_of_step hstep with
  | reset hr => rw [hreset] at hr; cases hr
  | ended hr hp => exact absurd hrun hp
  | handover hr hp ho => simp [hp, ho]
  | idle hr hp ho hv => simp [hp, hv]
  | cleanEnd ha hc => simpa [hc] using ha
  | fatal ha hc hop => simpa [hc, hop] using ha
  | move ha hc hop => simp [hrun, hc, hop]

/-- Settles O36: the latch is written by a reset, which empties it, and by the fatal stop, whose cause is the other
one; and no step answers a fault at all. -/
theorem internalInconsistencyIsNeverRaised : Obligations.InternalInconsistencyIsNeverRaised := by
  refine ⟨fun s t hcause hstep => ?_, fun s hfault => ?_⟩
  · cases stepTo_of_step hstep with
    | reset hr => simp
    | ended hr hp => exact hcause
    | handover hr hp ho => exact hcause
    | idle hr hp ho hv => exact hcause
    | cleanEnd ha hc => exact hcause
    | fatal ha hc hop => simp
    | move ha hc hop => exact hcause
  · obtain ⟨t, ht⟩ := exists_step_eq_next s
    rw [ht] at hfault
    cases hfault

/-- A step without reset that is no fatal stop keeps the latch. -/
theorem latch_kept_or_fatal (hreset : s.resetIn = none) (hstep : step s = .next t) :
    (t.faultCause = s.faultCause ∧ t.faultOpcode = s.faultOpcode) ∨ (s.phase = .run ∧ t.phase = .fault) := by
  cases stepTo_of_step hstep with
  | reset hr => rw [hreset] at hr; cases hr
  | ended hr hp => exact .inl ⟨rfl, rfl⟩
  | handover hr hp ho => exact .inl ⟨rfl, rfl⟩
  | idle hr hp ho hv => exact .inl ⟨rfl, rfl⟩
  | cleanEnd ha hc => exact .inl ⟨rfl, rfl⟩
  | fatal ha hc hop => exact .inr ⟨ha.1, rfl⟩
  | move ha hc hop => exact .inl ⟨rfl, rfl⟩

/-- Settles O37: only the fatal stop, which begins in RUN, writes the latch; in FAULT a step changes nothing but ports. -/
theorem faultLatchIsWrittenOncePerRun : Obligations.FaultLatchIsWrittenOncePerRun := by
  intro s t hreset hstep
  constructor
  · intro hwritten
    obtain ⟨hcause, hopcode⟩ | hfatal := latch_kept_or_fatal hreset hstep
    · exact absurd hwritten (by simp [hcause, hopcode])
    · exact hfatal
  · intro hfault
    rw [step_of_ended hreset (by simp [hfault])] at hstep
    cases hstep
    exact ⟨hfault, rfl, rfl⟩

/-- Settles O39: only the two cases that accept a chunk advance the reader, and none of the others accepts one. -/
theorem readerAdvancesOneChunkAtATime : Obligations.ReaderAdvancesOneChunkAtATime := by
  intro s t hreset hstep
  cases stepTo_of_step hstep with
  | reset hr => rw [hreset] at hr; cases hr
  | ended hr hp => simp [hp]
  | handover hr hp ho => simp [ho]
  | idle hr hp ho hv => simp [hv]
  | cleanEnd ha hc => simp [hc]
  | fatal ha hc hop => simpa [hc] using ha
  | move ha hc hop => simpa [hc] using ha

/-- Settles O48: none of the operations a step can be writes the parameter or an input but `reset`. -/
theorem noStepChangesParametersOrInputs : Obligations.NoStepChangesParametersOrInputs := by
  intro s t hstep
  cases stepTo_of_step hstep <;> exact ⟨rfl, rfl, rfl⟩

end Sys2Proof.Machine
end

section
/-! Steps that accept no chunk: the end of a run, a reset, and the waits for reader and consumer. -/

namespace Sys2Proof.Machine

variable {s t : State}

theorem inReady_false_of_ended (hp : s.phase ≠ .run) : s.inReady = false := by
  simp [State.inReady, hp]

theorem inReady_false_of_outstanding (ho : s.outstanding ≠ none) : s.inReady = false :=
  Bool.eq_false_iff.mpr fun hready => ho ((inReady_iff s).mp hready).2

/-- Settles O31: however many steps are taken after the end, only the ports fall quiet. -/
theorem nothingHappensAfterTheEnd : Obligations.NothingHappensAfterTheEnd := by
  intro s hended hreset
  refine ⟨inReady_false_of_ended hended, fun n => ?_⟩
  obtain hrun | hrun := run_of_ended hreset hended n
  · exact ⟨s, hrun, rfl, rfl, rfl, rfl, rfl, rfl, hreset, rfl, rfl⟩
  · exact ⟨s.noChunk, hrun, rfl, rfl, rfl, rfl, rfl, rfl, hreset, rfl, rfl⟩

/-- Settles O32: a reset comes before everything else, and its fields are those of R180. -/
theorem resetStartsANewRunInAnyPhase : Obligations.ResetStartsANewRunInAnyPhase := by
  intro s src hreset
  refine ⟨s.applyReset src, step_of_reset hreset, ?_⟩
  simp [State.decValid, State.outValid, State.inReady]

/-- Settles O29: fewer than two remaining bytes are an `End`, and that is the clean end. -/
theorem endOfStreamIsTheCleanEnd : Obligations.EndOfStreamIsTheCleanEnd := by
  intro s haccepting hend
  have hnext : s.streamNext = .endOfStream := hend.elim id streamNext_end_iff_remaining.mpr
  have ⟨hrun, hnone, _, hreset⟩ := haccepting
  refine ⟨s.cleanEnd, step_of_end haccepting hnext, rfl, rfl, rfl, rfl, rfl, rfl, rfl, rfl, rfl, rfl, rfl, hreset, rfl,
    hnone, rfl, rfl, fun ⟨hempty, _⟩ => ?_⟩
  exact hempty (by simp [hrun])

/-- Settles O26: with nothing offered the step is the one in which only the ports fall quiet. -/
theorem nothingOfferedNothingAccepted : Obligations.NothingOfferedNothingAccepted := by
  intro s hready hidle hreset
  obtain ⟨-, hnone⟩ := (inReady_iff s).mp hready
  exact ⟨s.noChunk, step_of_idle hreset hnone hidle, ⟨rfl, rfl, rfl, rfl, rfl, rfl, rfl, rfl, rfl⟩, rfl, hready, rfl,
    rfl, rfl⟩

/-- A consumer that takes nothing leaves everything as it is. -/
theorem consume_of_unwilling (h : s.outReady = false) : s.consume = s := by
  cases s
  simp_all [State.consume]

/-- A state whose step changes nothing stays for ever. -/
theorem run_of_step_self (h : step s = .next s) (n : Nat) : Sys2Proof.core.run n s = .next s := by
  induction n with
  | zero => rfl
  | succ n ih => rw [run_succ n h, ih]

/-- Settles O25: with a line outstanding the step is the output side alone, which changes nothing until the consumer is
willing and then writes the whole line; only a reset comes before it. -/
theorem outstandingLineHoldsTheNextChunkBack : Obligations.OutstandingLineHoldsTheNextChunkBack := by
  intro s text hrun hline
  have ho : s.outstanding ≠ none := by simp [hline]
  refine ⟨inReady_false_of_outstanding ho, fun hreset hunwilling n => ?_, fun hreset hwilling => ?_, fun src hreset => ?_⟩
  · have hwait : step s = .next s := by rw [step_of_outstanding hreset hrun ho, consume_of_unwilling hunwilling]
    exact run_of_step_self hwait n
  · obtain ⟨houtput, hnone⟩ := (emitsLine_consume hline).1 hwilling
    exact ⟨s.consume, step_of_outstanding hreset hrun ho, (inReady_iff _).mpr ⟨hrun, hnone⟩, houtput, rfl,
      ⟨rfl, rfl, rfl, rfl, rfl, rfl, rfl, rfl, rfl⟩⟩
  · exact ⟨s.applyReset src, step_of_reset hreset, rfl, rfl⟩

end Sys2Proof.Machine
end

section
/-! The status outputs and their codes (43_stream_driver.md R132, R137, R141; 10_state.md R20; 60_exceptions.md R150). -/

namespace Sys2Proof.Machine

theorem phaseBits_injective : Function.Injective phaseBits := by
  intro p q h
  cases p <;> cases q <;> simp_all [phaseBits]

theorem causeBits_injective : Function.Injective causeBits := by
  intro a b h
  cases a <;> cases b <;> simp_all [causeBits]

theorem phaseBits_ne_reserved (p : Phase) : phaseBits p ≠ 0b11#2 := by cases p <;> decide

theorem causeBits_ne_reserved (a : FaultCause) : causeBits a ≠ 3#2 := by cases a <;> decide

/-- Settles O46: each output is a test of the phase, and a phase is told by its code. -/
theorem statusOutputsFollowThePhase : Obligations.StatusOutputsFollowThePhase := by
  refine ⟨fun s => ⟨?_, ?_, ?_, phaseBits_ne_reserved _, causeBits_ne_reserved _⟩, fun _ _ h => phaseBits_injective h,
    fun _ _ h => causeBits_injective h, rfl, rfl, rfl⟩
  · rw [inReady_iff, show 0b00#2 = phaseBits .run from rfl, phaseBits_injective.eq_iff]
  · rw [State.exitOk, decide_eq_true_iff, show 0b01#2 = phaseBits .done from rfl, phaseBits_injective.eq_iff]
  · rw [State.exitFatal, decide_eq_true_iff, show 0b10#2 = phaseBits .fault from rfl, phaseBits_injective.eq_iff]

/-- Settles O47: the exit code of each phase, that of FAULT being a positive number whatever it is. -/
theorem exitStatusOfARun : Obligations.ExitStatusOfARun := by
  intro s
  refine ⟨fun hp => ?_, fun hp => ?_, fun hp => ⟨Config.exitCodeFatal.val, ?_, Config.exitCodeFatal.pos.ne'⟩⟩ <;>
  simp [State.exitStatus, hp]

/-- Settles O50: each field of the table is read off the state. -/
theorem resetStateHasTheSpecValues : Obligations.ResetStateHasTheSpecValues := by
  unfold Obligations.ResetStateHasTheSpecValues
  decide

end Sys2Proof.Machine
end

section
/-! What each move does (41_decode_dispatch.md R93 to R96, 43_stream_driver.md R133, R134, R139). -/

namespace Sys2Proof.Machine

variable {s t : State}

/-- With `in_ready = 1` the shared meaning of the moves completes: its ports, its line and its frame. -/
theorem acceptMove_completes (sl : Slices) (i : Decoded) (hs : s.inReady = true) :
    ∃ t, acceptMove sl i s = .next t ∧ t.decoded = some i ∧ t.slices = some sl ∧
      t.decWires = some (decKindOf i, decDstOf i, decSrcOf i) ∧ t.outText = some (render i) ∧
      EmitsLine s t (render i) ∧ t.faultValid = false ∧ MoveFrame s t :=
  ⟨s.emitMove sl i, if_pos hs, rfl, rfl, rfl, rfl, emitsLine_emitMove sl i s, rfl,
    ⟨rfl, rfl, rfl, rfl, rfl, rfl, rfl, rfl, rfl⟩⟩

/-- Settles O17: the shared meaning with `reg` as the source, half-width. -/
theorem movRm8Reg8PrintsRmThenReg : Obligations.MovRm8Reg8PrintsRmThenReg := by
  intro m reg rm s hs
  rw [← render_movHalf]
  exact acceptMove_completes (moveSlices false false m reg.sel rm.sel) (.movHalf rm reg) hs

/-- Settles O18: the shared meaning with `reg` as the source, full-width. -/
theorem movRm16Reg16PrintsRmThenReg : Obligations.MovRm16Reg16PrintsRmThenReg := by
  intro m reg rm s hs
  rw [← render_movFull]
  exact acceptMove_completes (moveSlices false true m reg.sel rm.sel) (.movFull rm reg) hs

/-- Settles O19: the shared meaning with `reg` as the destination, half-width. -/
theorem movReg8Rm8PrintsRegThenRm : Obligations.MovReg8Rm8PrintsRegThenRm := by
  intro m reg rm s hs
  rw [← render_movHalf]
  exact acceptMove_completes (moveSlices true false m reg.sel rm.sel) (.movHalf reg rm) hs

/-- Settles O20: the shared meaning with `reg` as the destination, full-width. -/
theorem movReg16Rm16PrintsRegThenRm : Obligations.MovReg16Rm16PrintsRegThenRm := by
  intro m reg rm s hs
  rw [← render_movFull]
  exact acceptMove_completes (moveSlices true true m reg.sel rm.sel) (.movFull reg rm) hs

/-- Settles O21: the shared meaning of the moves tests `in_ready` first. -/
theorem moveIsNotTakenWhenNotReady : Obligations.MoveIsNotTakenWhenNotReady :=
  fun i _ hs => exec_when_not_ready i hs

/-! ### From the bytes -/

/-- Settles O23: bytes that decode are a chunk's two and the rest, and that chunk is the one accepted. -/
theorem stepRunsTheDecodedInstruction : Obligations.StepRunsTheDecodedInstruction := by
  intro s i rest haccepting hdecode
  have hbytes : s.remaining = (encodeChunk i).byte0 :: (encodeChunk i).byte1 :: rest := decode_eq_ok_iff.mp hdecode
  have hnext := (streamNext_pair_iff s (encodeChunk i)).mpr ⟨rest, hbytes⟩
  refine ⟨step_of_decoded haccepting hnext (decodeChunk_encodeChunk i), ?_, rfl⟩
  rw [remaining_advance, hbytes]
  rfl

/-- A table word that decodes is a chunk that matches a row. -/
theorem decodeChunk_of_decodeTableWord {nbits w : Nat} {i : Instr} (h : decodeTableWord nbits w = some i) :
    decodeChunk (tableChunk nbits w) = .ok i := by
  cases hd : decodeChunk (tableChunk nbits w) with
  | ok j =>
    have hdecode := decode_of_decodeChunk hd []
    rw [List.append_nil] at hdecode
    rw [decodeTableWord, hdecode] at h
    exact congrArg Except.ok (Option.some.inj h)
  | error op => simp [decodeTableWord, decode, Chunk.bytes, hd] at h

theorem accepting_withNextChunk (s : State) (c : Chunk) : (s.withNextChunk c).Accepting := ⟨rfl, rfl, rfl, rfl⟩

/-- Settles O49: the loader makes the next step accept the word's chunk, whose row is then run. -/
theorem fetchWordRunsTheTableRow : Obligations.FetchWordRunsTheTableRow := by
  intro s nbits w i hword
  have haccepting := accepting_withNextChunk s (tableChunk nbits w)
  have hstep := step_of_decoded haccepting (streamNext_withNextChunk s _) (decodeChunk_of_decodeTableWord hword)
  have hexec := exec_when_ready i ((inReady_iff (s.withNextChunk (tableChunk nbits w)).advance).mpr ⟨rfl, rfl⟩)
  exact ⟨_, hstep.trans hexec, hexec, rfl, emitsLine_emitMove _ _ (s.withNextChunk (tableChunk nbits w)).advance⟩

/-- A supported chunk that decodes to `i` emits the line of `i`, and nothing else changes but the position. -/
theorem step_prints_decodeMov {c : Chunk} {i : Decoded} (ha : s.Accepting) (hc : s.streamNext = .pair c)
    (hop : c.opcode = supportedOpcode) (hi : decodeMov c = i) :
    ∃ t, step s = .next t ∧ MoveFrame s.advance t ∧ t.decoded = some i ∧ EmitsLine s t (render i) := by
  subst hi
  exact ⟨_, step_of_supported ha hc hop, ⟨rfl, rfl, rfl, rfl, rfl, rfl, rfl, rfl, rfl⟩, rfl,
    emitsLine_emitMove _ _ s.advance⟩

/-- `decode_mov` of the four first bytes, with the operands' selectors as values of the second. -/
theorem decodeMov_of_byte0 (b1 : Byte) :
    let reg := BitVec.ofNat 3 (b1.toNat / 8)
    let rm := BitVec.ofNat 3 b1.toNat
    decodeMov ⟨0x88#8, b1⟩ = .movHalf (Half8.ofSel rm) (Half8.ofSel reg) ∧
    decodeMov ⟨0x89#8, b1⟩ = .movFull (Full16.ofSel rm) (Full16.ofSel reg) ∧
    decodeMov ⟨0x8A#8, b1⟩ = .movHalf (Half8.ofSel reg) (Half8.ofSel rm) ∧
    decodeMov ⟨0x8B#8, b1⟩ = .movFull (Full16.ofSel reg) (Full16.ofSel rm) := by
  simp [decodeMov_eq_toNat, Chunk.reg, Chunk.rm, Chunk.regHalf, Chunk.rmHalf, Chunk.regSel_eq_ofNat,
    Chunk.rmSel_eq_ofNat]

/-- Settles O22: each of the four first bytes has the supported opcode, and its line is that of its `decode_mov`. -/
theorem stepPrintsEachRowForEverySecondByte : Obligations.StepPrintsEachRowForEverySecondByte := by
  intro s b1 haccepting
  obtain ⟨h88, h89, h8A, h8B⟩ := decodeMov_of_byte0 b1
  simp only [← render_movHalf, ← render_movFull]
  exact ⟨fun hc => step_prints_decodeMov haccepting hc (Chunk.opcode_supported_iff_range.mpr (by simp)) h88,
    fun hc => step_prints_decodeMov haccepting hc (Chunk.opcode_supported_iff_range.mpr (by simp)) h89,
    fun hc => step_prints_decodeMov haccepting hc (Chunk.opcode_supported_iff_range.mpr (by simp)) h8A,
    fun hc => step_prints_decodeMov haccepting hc (Chunk.opcode_supported_iff_range.mpr (by simp)) h8B⟩

end Sys2Proof.Machine
end

section
/-! Accepted chunks: the ports, the line and the fatal stop (40_bitfield_accessors.md R82, 41_decode_dispatch.md R97,
R99, 43_stream_driver.md R133, 60_exceptions.md R151). -/

namespace Sys2Proof.Machine

variable {s t : State}

/-- Settles O24: the step of a supported chunk, field by field. -/
theorem acceptedChunkEmitsOneLine : Obligations.AcceptedChunkEmitsOneLine := by
  intro s c haccepting hc hop
  have ⟨hrun, _⟩ := haccepting
  exact ⟨_, decodeMov c, step_of_supported haccepting hc hop, blockDecode_supported hop, rfl, rfl, rfl,
    emitsLine_emitMove _ _ s.advance, rfl, ⟨rfl, rfl, rfl, rfl, rfl, rfl, rfl, rfl, rfl⟩, hrun, remaining_advance s⟩

/-- An accepted chunk's step is the move or the fatal stop. -/
theorem step_of_pair_cases {c : Chunk} (ha : s.Accepting) (hc : s.streamNext = .pair c) (hstep : step s = .next t) :
    (c.opcode = supportedOpcode ∧ t = s.advance.emitMove (chunkSlices c) (decodeMov c)) ∨
    (c.opcode ≠ supportedOpcode ∧ t = s.advance.fatalStop .unsupportedOpcode c.opcode c) := by
  by_cases hop : c.opcode = supportedOpcode
  · rw [step_of_supported ha hc hop] at hstep
    cases hstep
    exact .inl ⟨hop, rfl⟩
  · rw [step_of_fatal ha hc hop] at hstep
    cases hstep
    exact .inr ⟨hop, rfl⟩

/-- Settles O40: the move and the fatal stop show the same slices. -/
theorem slicerPortsShowEveryAcceptedChunk : Obligations.SlicerPortsShowEveryAcceptedChunk := by
  intro s t c haccepting hc hstep
  obtain ⟨-, rfl⟩ | ⟨-, rfl⟩ := step_of_pair_cases haccepting hc hstep <;> rfl

/-- The wires of `decode_mov`: the kind is `w`, and `d` chooses the roles of the two selectors (R99). -/
theorem wires_decodeMov (c : Chunk) :
    (decKindOf (decodeMov c), decDstOf (decodeMov c), decSrcOf (decodeMov c)) =
      (c.width, if c.direction then c.regSel else c.rmSel, if c.direction then c.rmSel else c.regSel) := by
  cases hw : c.width <;> cases hd : c.direction <;>
    simp [decodeMov, hw, hd, decKindOf, decDstOf, decSrcOf, Chunk.reg, Chunk.rm, Chunk.regHalf, Chunk.rmHalf]

/-- Settles O41: the move presents the wires of `decode_mov`, and the fatal stop none. -/
theorem decodedPortsFollowWidthAndDirection : Obligations.DecodedPortsFollowWidthAndDirection := by
  intro s t c haccepting hc hstep
  obtain ⟨hop, rfl⟩ | ⟨hop, rfl⟩ := step_of_pair_cases haccepting hc hstep
  · exact ⟨iff_of_true rfl hop, fun _ => congrArg some (wires_decodeMov c), fun hlow => by cases hlow⟩
  · exact ⟨iff_of_false (by simp [State.decValid]) hop, fun h => absurd h hop, fun _ => rfl⟩

/-- R97: the accessors of the dispatch read `byte1[5:0]` only. -/
theorem decodeMov_congr {c c' : Chunk} (h0 : c.byte0 = c'.byte0) (h1 : c.byte1.toNat % 64 = c'.byte1.toNat % 64) :
    decodeMov c = decodeMov c' := by
  have hreg : c.regSel = c'.regSel := by
    rw [c.regSel_eq_ofNat, c'.regSel_eq_ofNat]
    apply BitVec.eq_of_toNat_eq
    simp only [BitVec.toNat_ofNat]
    omega
  have hrm : c.rmSel = c'.rmSel := by
    rw [c.rmSel_eq_ofNat, c'.rmSel_eq_ofNat]
    apply BitVec.eq_of_toNat_eq
    simp only [BitVec.toNat_ofNat]
    omega
  simp [decodeMov, Chunk.width, Chunk.direction, Chunk.reg, Chunk.rm, Chunk.regHalf, Chunk.rmHalf, h0, hreg, hrm]

/-- Settles O42: chunks that agree in `byte0` take the same case, and the move's ports show `decode_mov` alone. -/
theorem sameChunkGivesSameLineAnywhere : Obligations.SameChunkGivesSameLineAnywhere := by
  intro s s' c c' ha hc ha' hc' h0 h1
  have hopcode : c.opcode = c'.opcode := by rw [Chunk.opcode, h0, Chunk.opcode]
  have hdecoded := decodeMov_congr h0 h1
  by_cases hop : c.opcode = supportedOpcode
  · have hphase : s.phase = s'.phase := ha.1.trans ha'.1.symm
    exact ⟨_, _, step_of_supported ha hc hop, step_of_supported ha' hc' (hopcode ▸ hop), hphase,
      congrArg some hdecoded, congrArg (some ∘ render) hdecoded, rfl, fun h => by simp [ha.1] at h⟩
  · exact ⟨_, _, step_of_fatal ha hc hop, step_of_fatal ha' hc' (hopcode ▸ hop), rfl, rfl, rfl, rfl, fun _ => hopcode⟩

/-- Settles O28: the step is the fatal stop, and after it, in FAULT without a reset, only the ports change. -/
theorem unsupportedOpcodeIsTheFatalStop : Obligations.UnsupportedOpcodeIsTheFatalStop := by
  intro s c haccepting hc hrange
  have hop : c.opcode ≠ supportedOpcode := mt Chunk.opcode_supported_iff_range.mp hrange
  have ⟨_, hnone, _, hreset⟩ := haccepting
  refine ⟨_, step_of_fatal haccepting hc hop, rfl, rfl, rfl, rfl, c.opcode_toNat, ?_, rfl, rfl, rfl, rfl, rfl, hnone,
    rfl, rfl, hreset, rfl, rfl, rfl, fun n u hu => ?_⟩
  · rw [State.fatalStop_faultOpcode, c.opcode_toNat]
    exact mt Chunk.opcode_supported_iff_toNat.mpr hop
  · obtain hrun | hrun := run_of_ended (s := s.advance.fatalStop .unsupportedOpcode c.opcode c) hreset (by simp) n <;>
    · rw [hrun] at hu
      cases hu
      exact ⟨rfl, rfl, rfl, rfl⟩

end Sys2Proof.Machine
end

section
/-! What the reader delivers (43_stream_driver.md R131, 20_memory.md R35 to R37; log 10). -/

namespace Sys2Proof.Machine

variable {s t : State}

/-- The deliverable bytes are the stream up to a fault. -/
theorem delivered_prefix (src : Source) : src.delivered <+: src.bytes := by
  unfold Source.delivered
  split
  · exact List.prefix_rfl
  · exact List.take_prefix _ _

/-- A fault after `f` chunks leaves at most those. -/
theorem delivered_length_le_of_fault {src : Source} {f : Nat} (hf : src.readFaultAt = some f) :
    src.delivered.length ≤ 2 * f := by
  simp [Source.delivered, hf]

/-- What stands before the fault is delivered. -/
theorem lt_delivered_length {src : Source} {k : Nat} (hk : 2 * k + 1 < src.bytes.length)
    (hfault : ∀ f, src.readFaultAt = some f → k < f) : 2 * k + 1 < src.delivered.length := by
  cases hf : src.readFaultAt with
  | none => simpa [Source.delivered, hf] using hk
  | some f =>
    have hkf := hfault f hf
    simp only [Source.delivered, hf, List.length_take]
    omega

/-- A delivered chunk is two bytes of the stream. -/
theorem bytes_of_streamNext {c : Chunk} (hc : s.streamNext = .pair c) :
    s.source.bytes[2 * s.nextChunk]? = some c.byte0 ∧ s.source.bytes[2 * s.nextChunk + 1]? = some c.byte1 := by
  obtain ⟨rest, hrest⟩ := (streamNext_pair_iff s c).mp hc
  obtain ⟨tail, htail⟩ := delivered_prefix s.source
  have hlength : s.remaining.length = s.source.delivered.length - 2 * s.nextChunk := List.length_drop
  have hbehind : s.source.bytes.drop (2 * s.nextChunk) = c.byte0 :: c.byte1 :: (rest ++ tail) := by
    rw [hrest, List.length_cons, List.length_cons] at hlength
    rw [← htail, List.drop_append_of_le_length (by omega)]
    exact congrArg (· ++ tail) hrest
  have hread := fun j => List.getElem?_drop (xs := s.source.bytes) (i := 2 * s.nextChunk) (j := j)
  rw [hbehind] at hread
  exact ⟨(hread 0).symm, (hread 1).symm⟩

/-- Settles O30: with no byte or one byte left, or the fault reached, fewer than two bytes are deliverable; otherwise the
two are. -/
theorem readerEndsInThreeWays : Obligations.ReaderEndsInThreeWays := by
  intro s
  have hprefix := (delivered_prefix s.source).length_le
  refine ⟨fun hnone => (streamNext_end_iff s).mpr (by omega), fun hone => (streamNext_end_iff s).mpr (by omega),
    fun f hf hreached => ?_, fun htwo hfault => ?_⟩
  · have hdelivered := delivered_length_le_of_fault hf
    exact (streamNext_end_iff s).mpr (by omega)
  · have hdelivered := lt_delivered_length htwo hfault
    cases hc : s.streamNext with
    | endOfStream => exact absurd ((streamNext_end_iff s).mp hc) (by omega)
    | pair c => exact ⟨c, rfl, bytes_of_streamNext hc⟩

end Sys2Proof.Machine
end

section
/-! What a step does not depend on (43_stream_driver.md R132, 20_memory.md R37, R38, R44, 60_exceptions.md R155, R158). -/

namespace Sys2Proof.Machine

variable {s t : State}

/-- With nothing offered a step is the same whatever the stream and the position. -/
theorem step_of_not_offered (src : Source) (k : Nat) (hidle : s.inValid = false) (hreset : s.resetIn = none)
    (hstep : step s = .next t) :
    step { s with source := src, nextChunk := k } = .next { t with source := src, nextChunk := k } := by
  have hnot : ¬ s.Accepting := by simp [hidle]
  apply step_of_stepTo
  cases stepTo_of_step hstep with
  | reset hr => rw [hreset] at hr; cases hr
  | ended hr hp => exact .ended hr hp
  | handover hr hp ho => exact .handover hr hp ho
  | idle hr hp ho hv => exact .idle hr hp ho hv
  | cleanEnd ha hc => exact absurd ha hnot
  | fatal ha hc hop => exact absurd ha hnot
  | move ha hc hop => exact absurd ha hnot

/-- Settles O27: the input ports are functions of what is offered, and with nothing offered no case of a step reads the
stream. -/
theorem inputPortsAreDontCareUnlessOffered : Obligations.InputPortsAreDontCareUnlessOffered := by
  refine ⟨fun s hidle => ?_, fun s t src k => step_of_not_offered src k, fun s hvalid => ⟨fun hend => ?_, fun c hc => ?_⟩⟩
  · simp [State.inEnd, State.inByte0, State.inByte1, offered_of_idle hidle]
  · simp [State.inEnd, State.inByte0, State.inByte1, offered_of_valid hvalid, hend]
  · simp [State.inEnd, State.inByte0, State.inByte1, offered_of_valid hvalid, hc]

/-- Settles O43: a step reads of the stream only what is delivered next. -/
theorem unreadBytesDoNotMatter : Obligations.UnreadBytesDoNotMatter := by
  intro s t src hreset hsame hstep
  apply step_of_stepTo
  cases stepTo_of_step hstep with
  | reset hr => rw [hreset] at hr; cases hr
  | ended hr hp => exact .ended hr hp
  | handover hr hp ho => exact .handover hr hp ho
  | idle hr hp ho hv => exact .idle hr hp ho hv
  | cleanEnd ha hc => exact .cleanEnd ha (hsame.trans hc)
  | fatal ha hc hop => exact .fatal ha (hsame.trans hc) hop
  | move ha hc hop => exact .move ha (hsame.trans hc) hop

/-- Streams that deliver the same bytes deliver the same chunks. -/
theorem streamNext_congr {src : Source} (h : src.delivered = s.source.delivered) :
    ({ s with source := src } : State).streamNext = s.streamNext := by
  simp only [State.streamNext, h]

/-- Settles O45: both streams deliver the bytes before the fault. -/
theorem readFaultIsTheEndOfTheDeliveredPrefix : Obligations.ReadFaultIsTheEndOfTheDeliveredPrefix := by
  intro s t f hreset hf hstep
  refine unreadBytesDoNotMatter s t _ hreset (streamNext_congr ?_) hstep
  simp [Source.delivered, hf]

/-- A lone byte after whole chunks is deliverable or not; if it is, whole chunks are before it. -/
theorem delivered_append_lone (bytes : List Byte) (fault : Option Nat) (b : Byte) (heven : bytes.length % 2 = 0) :
    Source.delivered ⟨bytes ++ [b], fault⟩ = Source.delivered ⟨bytes, fault⟩ ∨
    (Source.delivered ⟨bytes ++ [b], fault⟩ = Source.delivered ⟨bytes, fault⟩ ++ [b] ∧
      (Source.delivered ⟨bytes, fault⟩).length % 2 = 0) := by
  cases fault with
  | none => exact .inr ⟨rfl, heven⟩
  | some f =>
    simp only [Source.delivered]
    by_cases hf : 2 * f ≤ bytes.length
    · exact .inl (List.take_append_of_le_length hf)
    · rw [List.take_of_length_le (by simp; omega), List.take_of_length_le (by omega)]
      exact .inr ⟨rfl, heven⟩

/-- A lone deliverable byte behind whole chunks is never part of the chunk delivered next. -/
theorem streamNext_append_lone {src : Source} {b : Byte} (happend : src.delivered = s.source.delivered ++ [b])
    (heven : s.source.delivered.length % 2 = 0) : ({ s with source := src } : State).streamNext = s.streamNext := by
  cases hc : s.streamNext with
  | endOfStream =>
    rw [streamNext_end_iff] at hc ⊢
    simp only [happend, List.length_append, List.length_singleton]
    omega
  | pair c =>
    rw [streamNext_pair_iff] at hc ⊢
    obtain ⟨rest, hrest⟩ := hc
    have hlength : s.remaining.length = s.source.delivered.length - 2 * s.nextChunk := List.length_drop
    rw [hrest, List.length_cons, List.length_cons] at hlength
    refine ⟨rest ++ [b], ?_⟩
    rw [State.remaining, happend, List.drop_append_of_le_length (by simp only; omega)]
    exact congrArg (· ++ [b]) hrest

/-- Settles O44: a lone remaining byte is an `End`, and one behind whole chunks never stands where a chunk is read. -/
theorem loneLastByteIsNeverInspected : Obligations.LoneLastByteIsNeverInspected := by
  constructor
  · intro s haccepting hlone
    have hend : s.streamNext = .endOfStream := streamNext_end_iff_remaining.mpr (by rw [hlone]; decide)
    exact ⟨s.cleanEnd, step_of_end haccepting hend, rfl, rfl, rfl⟩
  · intro s t b hreset heven hstep
    refine unreadBytesDoNotMatter s t _ hreset ?_ hstep
    obtain hsame | ⟨happend, hwhole⟩ := delivered_append_lone s.source.bytes s.source.readFaultAt b heven
    · exact streamNext_congr hsame
    · exact streamNext_append_lone happend hwhole

end Sys2Proof.Machine
end

section
/-! Whole runs (43_stream_driver.md R140, 70_reset_and_hazards.md R187). -/

namespace Sys2Proof.Machine

variable {s t : State} {terminator bytes : List Byte}

/-- What a run over the remaining bytes ends with: the reference run's output after what stands there, and its status
in the phase and the latch. -/
def EndsAsReference (s t : State) : Prop :=
  t.output = s.output ++ (referenceRun s.lineTerminator s.remaining).output ∧
  (∀ op, (referenceRun s.lineTerminator s.remaining).status = .fault op →
    t.phase = .fault ∧ t.faultCause = .unsupportedOpcode ∧ t.faultOpcode = op) ∧
  ((referenceRun s.lineTerminator s.remaining).status = .done →
    t.phase = .done ∧ t.faultCause = s.faultCause ∧ t.faultOpcode = s.faultOpcode)

/-- The end of a run is seen in any state that differs in the ports only. -/
theorem endsAsReference_noChunk (h : EndsAsReference s t) : EndsAsReference s t.noChunk := h

theorem endsAsReference_run_of_ended (h : EndsAsReference s t) (hreset : t.resetIn = none) (hp : t.phase ≠ .run) (n : Nat) :
    ∃ u, Sys2Proof.core.run n t = .next u ∧ EndsAsReference s u := by
  obtain hrun | hrun := run_of_ended hreset hp n
  · exact ⟨t, hrun, h⟩
  · exact ⟨t.noChunk, hrun, endsAsReference_noChunk h⟩

theorem endsAsReference_cleanEnd (hc : s.streamNext = .endOfStream) : EndsAsReference s s.cleanEnd := by
  have hrun : referenceRun s.lineTerminator s.remaining = ⟨[], .done⟩ :=
    referenceRun_short (streamNext_end_iff_remaining.mp hc)
  simp [EndsAsReference, hrun]

theorem endsAsReference_fatalStop {c : Chunk} (hc : s.streamNext = .pair c) (hop : c.opcode ≠ supportedOpcode) :
    EndsAsReference s (s.advance.fatalStop .unsupportedOpcode c.opcode c) := by
  obtain ⟨rest, hrest⟩ := (streamNext_pair_iff s c).mp hc
  have hrun : referenceRun s.lineTerminator s.remaining = ⟨[], .fault c.opcode⟩ := by
    rw [hrest, referenceRun_unsupported s.lineTerminator hop]
  simp [EndsAsReference, hrun]

/-- After a move the bytes behind its chunk remain. -/
theorem remaining_of_move {c : Chunk} (hc : s.streamNext = .pair c) :
    ∃ rest, s.remaining = c.byte0 :: c.byte1 :: rest ∧
      (s.advance.emitMove (chunkSlices c) (decodeMov c)).remaining = rest := by
  obtain ⟨rest, hrest⟩ := (streamNext_pair_iff s c).mp hc
  have hbehind := remaining_advance s
  rw [hrest] at hbehind
  exact ⟨rest, hrest, hbehind⟩

/-- A move whose line the consumer takes prints the reference run's first line; the rest of the run is that of the
bytes behind the chunk. -/
theorem endsAsReference_of_move {c : Chunk} (hready : s.outReady = true) (hc : s.streamNext = .pair c)
    (hop : c.opcode = supportedOpcode)
    (h : EndsAsReference (s.advance.emitMove (chunkSlices c) (decodeMov c)) t) : EndsAsReference s t := by
  obtain ⟨rest, hrest, hbehind⟩ := remaining_of_move hc
  have hrun := referenceRun_supported s.lineTerminator hop rest
  simpa [EndsAsReference, hrest, hbehind, hrun, hready] using h

/-- By induction on the steps: each either ends the run or is a move, after which less remains. -/
theorem exists_run_endsAsReference {n : Nat} (ha : s.Accepting) (hready : s.outReady = true)
    (hn : s.remaining.length / 2 + 1 ≤ n) : ∃ t, Sys2Proof.core.run n s = .next t ∧ EndsAsReference s t := by
  induction n generalizing s with
  | zero => omega
  | succ n ih =>
    have ⟨hp, _, hv, hreset⟩ := ha
    cases hc : s.streamNext with
    | endOfStream =>
      rw [run_succ n (step_of_end ha hc)]
      exact endsAsReference_run_of_ended (endsAsReference_cleanEnd hc) hreset (by simp) n
    | pair c =>
      by_cases hop : c.opcode = supportedOpcode
      · rw [run_succ n (step_of_supported ha hc hop)]
        have haccepting : (s.advance.emitMove (chunkSlices c) (decodeMov c)).Accepting :=
          ⟨hp, by simp [hready], hv, hreset⟩
        obtain ⟨rest, hrest, hbehind⟩ := remaining_of_move hc
        have hless : (s.advance.emitMove (chunkSlices c) (decodeMov c)).remaining.length / 2 + 1 ≤ n := by
          rw [hrest, List.length_cons, List.length_cons] at hn
          rw [hbehind]
          omega
        obtain ⟨t, hrun, ht⟩ := ih haccepting hready hless
        exact ⟨t, hrun, endsAsReference_of_move hready hc hop ht⟩
      · rw [run_succ n (step_of_fatal ha hc hop)]
        exact endsAsReference_run_of_ended (endsAsReference_fatalStop hc hop) hreset (by simp) n

/-- Settles O55: a run of at least that many steps ends, and its end is the reference run's. -/
theorem wholeRunIsTheReferenceRun : Obligations.WholeRunIsTheReferenceRun :=
  fun _ _ ha hready hn => exists_run_endsAsReference ha hready hn

/-! ### One line per decoded chunk (R187) -/

/-- The first chunk of a byte sequence is supported when its opcode is. -/
theorem chunkSupported_zero (b0 b1 : Byte) (rest : List Byte) :
    chunkSupported (b0 :: b1 :: rest) 0 ↔ (Chunk.mk b0 b1).opcode = supportedOpcode :=
  (Chunk.opcode_supported_iff_toNat (c := ⟨b0, b1⟩)).symm

/-- The chunks behind the first are those of the rest. -/
theorem chunkSupported_succ (b0 b1 : Byte) (rest : List Byte) (k : Nat) :
    chunkSupported (b0 :: b1 :: rest) (k + 1) ↔ chunkSupported rest k := Iff.rfl

/-- If every chunk is supported, the reference run prints a line for each. -/
theorem referenceRun_of_all_supported (h : ∀ k, k < bytes.length / 2 → chunkSupported bytes k) :
    (referenceRun terminator bytes).status = .done ∧
    ∃ lines : List Decoded, lines.length = bytes.length / 2 ∧
      (referenceRun terminator bytes).output = lines.flatMap (lineBytes terminator) := by
  induction bytes using List.twoStepInduction with
  | nil => exact ⟨rfl, [], rfl, rfl⟩
  | singleton b => exact ⟨rfl, [], by simp, rfl⟩
  | cons_cons b0 b1 rest ih _ =>
    have hlength : (b0 :: b1 :: rest).length / 2 = rest.length / 2 + 1 := by simp; omega
    rw [hlength] at h ⊢
    have hop := (chunkSupported_zero b0 b1 rest).mp (h 0 (by omega))
    obtain ⟨hdone, lines, hcount, houtput⟩ := ih fun k hk => (chunkSupported_succ b0 b1 rest k).mp (h (k + 1) (by omega))
    have hrun := referenceRun_supported terminator hop rest
    refine ⟨by rw [hrun]; exact hdone, decodeMov ⟨b0, b1⟩ :: lines, by rw [List.length_cons, hcount], ?_⟩
    rw [hrun, List.flatMap_cons, ← houtput]

/-- If chunk `k` is the first that is not supported, the reference run prints a line for each before it and stops there. -/
theorem referenceRun_of_first_unsupported {k : Nat} (hk : k < bytes.length / 2) (hbad : ¬ chunkSupported bytes k)
    (hgood : ∀ j, j < k → chunkSupported bytes j) :
    (∃ op, (referenceRun terminator bytes).status = .fault op ∧ op.toNat = (bytes.getD (2 * k) 0#8).toNat / 4) ∧
    ∃ lines : List Decoded, lines.length = k ∧
      (referenceRun terminator bytes).output = lines.flatMap (lineBytes terminator) := by
  induction bytes using List.twoStepInduction generalizing k with
  | nil => simp at hk
  | singleton b => simp at hk
  | cons_cons b0 b1 rest ih _ =>
    cases k with
    | zero =>
      have hop := mt (chunkSupported_zero b0 b1 rest).mpr hbad
      have hrun := referenceRun_unsupported terminator hop rest
      exact ⟨⟨_, by rw [hrun], Chunk.opcode_toNat ⟨b0, b1⟩⟩, [], rfl, by rw [hrun]; rfl⟩
    | succ k =>
      have hop := (chunkSupported_zero b0 b1 rest).mp (hgood 0 (by omega))
      obtain ⟨⟨op, hfault, hopcode⟩, lines, hcount, houtput⟩ := ih (k := k) (by simp at hk; omega)
        (mt (chunkSupported_succ b0 b1 rest k).mpr hbad) fun j hj => hgood (j + 1) (by omega)
      have hrun := referenceRun_supported terminator hop rest
      refine ⟨⟨op, by rw [hrun]; exact hfault, hopcode⟩, decodeMov ⟨b0, b1⟩ :: lines,
        by rw [List.length_cons, hcount], ?_⟩
      rw [hrun, List.flatMap_cons, ← houtput]

/-- A run that ends as the reference run does is over. -/
theorem phase_ne_run_of_endsAsReference (h : EndsAsReference s t) : t.phase ≠ .run := by
  obtain ⟨-, hfault, hdone⟩ := h
  cases hstatus : (referenceRun s.lineTerminator s.remaining).status with
  | done => simp [hdone hstatus]
  | fault op => simp [hfault op hstatus]

/-- Settles O56: the whole run is the reference run, which prints its lines up to the first unsupported chunk. -/
theorem runEndsWithOneLinePerDecodedChunk : Obligations.RunEndsWithOneLinePerDecodedChunk := by
  intro s n ha hready hn
  obtain ⟨t, hrun, hends⟩ := exists_run_endsAsReference ha hready hn
  have ⟨houtput, hfault, hdone⟩ := hends
  refine ⟨t, hrun, phase_ne_run_of_endsAsReference hends, fun hall => ?_, fun k hk hbad hgood => ?_⟩
  · obtain ⟨hstatus, lines, hcount, hlines⟩ := referenceRun_of_all_supported (terminator := s.lineTerminator) hall
    exact ⟨(hdone hstatus).1, lines, hcount, by rw [houtput, hlines]⟩
  · obtain ⟨⟨op, hstatus, hopcode⟩, lines, hcount, hlines⟩ :=
      referenceRun_of_first_unsupported (terminator := s.lineTerminator) hk hbad hgood
    obtain ⟨hphase, -, hop⟩ := hfault op hstatus
    exact ⟨hphase, by rw [hop, hopcode], lines, hcount, by rw [houtput, hlines]⟩

end Sys2Proof.Machine
end
